-- ==== Sys2Proof/Word.lean ====
section
/-! DEFINITION. The word types of RFDEC: the bus carries 32-bit words (20_memory.md R39), 64-bit quantities are two of
them (20_memory.md R38), and a byte is what a byte-addressed system sees of a word (20_memory.md R38). -/

namespace Sys2Proof

/-- A word of the bus port, 32 bits (20_memory.md R34, R39). -/
abbrev Word := BitVec 32

/-- A byte, seen only where a system maps the window into a byte-addressed space (20_memory.md R38). -/
abbrev Byte := BitVec 8

/-- A 64-bit quantity: a timestamp or a decoded value (00_scope.md R5, VALUE_BITS and TIME_W). -/
abbrev Wide := BitVec 64

/-- `bus_addr`: a word address, the byte offset divided by 4 (20_memory.md R34). -/
abbrev BusAddr := BitVec 10

end Sys2Proof
end

