-- ==== Sys2Proof/Syntax.lean ====
section
/-! DEFINITION. What can be written down for RFDEC: the five commands, the data records the spec encodes, the words of the
register window, the events of the host, and the pseudo-operations of a host script. -/

namespace Sys2Proof

/-- The commands: one constructor per row of opcode_table.json (30_encoding.md R52). No command word carries an operand
(30_encoding.md R53). -/
inductive Instr where
  /-- 43_control.md R102. -/
  | nop
  /-- 41_decoder.md R75. -/
  | decode
  /-- 42_dupfilter.md R91. -/
  | chkdup
  /-- 43_control.md R103. -/
  | event
  /-- 43_control.md R104. -/
  | reset
  deriving DecidableEq, Repr

/-- A pulse: duration in microseconds and PHYSICAL level, `true` for logic-high (10_state.md R24, R25). -/
structure Pulse where
  dur : BitVec 15
  lvl : Bool
  deriving DecidableEq, Repr

/-- A high:low pair of ratio components (10_state.md R28). -/
structure Ratio where
  high : BitVec 8
  low : BitVec 8
  deriving DecidableEq, Repr, Inhabited

/-- A protocol definition, one registry entry (10_state.md R28). -/
structure Definition where
  id : BitVec 8
  /-- Family code: 0 is PWM, the others are reserved (30_encoding.md R58). -/
  family : BitVec 8
  /-- Tolerance percentage, legal 0 to 100. -/
  tol : BitVec 8
  /-- Base unit in microseconds. -/
  base : BitVec 16
  sync : Ratio
  zero : Ratio
  one : Ratio
  inverted : Bool
  addLastPulse : Bool
  deriving DecidableEq, Repr

/-- An entry of the duplicate log: exactly these three fields, no valid bit (10_state.md R26). -/
structure LogEntry where
  /-- Last-seen timestamp in milliseconds. -/
  last : Wide
  bits : BitVec 7
  val : Wide
  deriving DecidableEq, Repr

/-- The words of the register window that have a name (20_memory.md R35). Every other word is reserved. -/
inductive Reg where
  | cmd
  | status
  | pcount
  | nproto
  | timeLo
  | timeHi
  | argBits
  | argValLo
  | argValHi
  | resId
  | resBits
  | resValLo
  | resValHi
  | pulse (w : Fin 64)
  | logLastLo (i : Fin 20)
  | logLastHi (i : Fin 20)
  | logValLo (i : Fin 20)
  | logValHi (i : Fin 20)
  | logBits (i : Fin 20)
  | regW0 (k : Fin 128)
  | regW1 (k : Fin 128)
  | regW2 (k : Fin 128)
  deriving DecidableEq, Repr

/-- The host's access right to a word (20_memory.md R35). -/
inductive Access where
  | readWrite
  | readOnly
  | writeOnly
  deriving DecidableEq, Repr

/-- What the outside does to the block, one at a time: a bus read, a bus write (20_memory.md R34), or a hardware reset
(70_reset_and_hazards.md R125). A word address and a whole word are all a transfer can carry, so no narrow or misaligned
access can be written down (20_memory.md R39). -/
inductive HostEvent where
  | read (addr : BusAddr)
  | write (addr : BusAddr) (data : Word)
  | hardReset
  deriving DecidableEq, Repr

/-- The encoding of one script line: write enable, BYTE offset, data (30_encoding.md R64). -/
structure Triple where
  we : Bool
  offset : Nat
  /-- `none` for a read: `RD` has no data. -/
  data : Option Word
  deriving DecidableEq, Repr

/-- The 64-bit quantities that occupy two words of the window (30_encoding.md R62). -/
inductive Pair where
  | time
  | argVal
  | resVal
  | logLast (i : Fin 20)
  | logVal (i : Fin 20)
  deriving DecidableEq, Repr

/-- A line of a host script: `WR`, `RD` (30_encoding.md R64) or a pseudo-operation (30_encoding.md R65). -/
inductive ScriptLine where
  | wr (r : Reg) (v : Word)
  | rd (r : Reg)
  /-- `WR` to a byte offset. -/
  | wrAt (offset : Nat) (v : Word)
  /-- `RD` of a byte offset. -/
  | rdAt (offset : Nat)
  | cmd (i : Instr)
  | wr64 (p : Pair) (v : Wide)
  | rd64 (p : Pair)
  | loadp (train : List Pulse)
  | dupq (t : Wide) (b : Word) (v : Wide)
  deriving DecidableEq, Repr

/-- One 16-byte slot of the registry ROM: three words of the entry and the reserved fourth (30_encoding.md R57). -/
structure RomSlot where
  w0 : Word
  w1 : Word
  w2 : Word
  w3 : Word
  deriving DecidableEq, Repr

end Sys2Proof
end

