-- ==== Sys2Proof/WellFormed.lean ====
section
/-! DEFINITION. The constants of 00_scope.md R5 that checks need, and the checks: which commands, definitions, registries
and script lines are well formed. -/

namespace Sys2Proof

/-- TOL_MAX of 00_scope.md R5. -/
abbrev Config.tolMax : Nat := 100

/-- PULSE_CAP of 00_scope.md R5: slots of the pulse buffer. -/
abbrev Config.pulseCap : Nat := 128

/-- The most entries a registry window holds (20_memory.md R35; the bound on NPROTO of 00_scope.md R5). -/
abbrev Config.protoMax : Nat := 128

/-- The family code of PWM (30_encoding.md R58). -/
def Config.familyPwm : BitVec 8 := 0

/-- A command carries no operand that could be out of range (30_encoding.md R53). -/
def Instr.wf (i : Instr) : Bool :=
  match i with
  | .nop => true
  | .decode => true
  | .chkdup => true
  | .event => true
  | .reset => true

/-- A definition is well formed when its family is PWM and its tolerance at most 100 (00_scope.md R6). The third clause of
R6, reserved bits zero, is about the encoded words: `romSlotToDefinition` checks it. -/
def Definition.wf (d : Definition) : Bool :=
  d.family == Config.familyPwm && decide (d.tol.toNat ≤ Config.tolMax)

/-- A registry is well formed when every entry is, and there are at most 128 (00_scope.md R5, R6; U20). -/
def registryWf (reg : List Definition) : Bool :=
  decide (reg.length ≤ Config.protoMax) && reg.all Definition.wf

/-- The named lines are always well formed; a line with a byte offset needs a word-aligned offset inside the window
(20_memory.md R36, R37, U12); a pulse train must fit the buffer (10_state.md R24). -/
def ScriptLine.wf (l : ScriptLine) : Bool :=
  match l with
  | .wr _ _ => true
  | .rd _ => true
  | .wrAt o _ => o % 4 == 0 && decide (o < 4096)
  | .rdAt o => o % 4 == 0 && decide (o < 4096)
  | .cmd i => i.wf
  | .wr64 _ _ => true
  | .rd64 _ => true
  | .loadp t => decide (t.length ≤ Config.pulseCap)
  | .dupq _ _ _ => true

end Sys2Proof
end

