-- ==== Sys2Proof/Config.lean ====
section
/-! DEFINITION. What an instance of RFDEC fixes: the constants of 00_scope.md R5 and the OPEN parameter REGISTRY
(92_eei_decisions.md D10). -/

namespace Sys2Proof

/-- LOG_CAP of 00_scope.md R5: entries of the duplicate log. -/
abbrev Config.logCap : Nat := 20

/-- WINDOW_MS of 00_scope.md R5: the duplicate window in milliseconds. -/
abbrev Config.windowMs : Nat := 1000

/-- MIN_PULSES of 00_scope.md R5: fewest pulses for a decode attempt. -/
abbrev Config.minPulses : Nat := 16

/-- An entry of a well-formed registry (00_scope.md R6): its tolerance is at most TOL_MAX, and it has no field for a family other than PWM or
for reserved bits. -/
structure RegistryEntry where
  id : BitVec 8
  tol : Fin (Config.tolMax + 1)
  base : BitVec 16
  sync : Ratio
  zero : Ratio
  one : Ratio
  inverted : Bool
  addLastPulse : Bool
  deriving DecidableEq, Repr, Inhabited

/-- The definition an entry is (10_state.md R28). -/
def RegistryEntry.definition (e : RegistryEntry) : Definition where
  id := e.id
  family := Config.familyPwm
  tol := BitVec.ofNat 8 e.tol
  base := e.base
  sync := e.sync
  zero := e.zero
  one := e.one
  inverted := e.inverted
  addLastPulse := e.addLastPulse

/-- NPROTO, 0 to 128. OPEN in the spec (00_scope.md R5; D10): no body, so that nothing can be proved of its value (log 1). -/
opaque Config.nproto : Fin (Config.protoMax + 1)

/-- The entries of REGISTRY, in priority order. OPEN in the spec (00_scope.md R5, R6; D10): no body (log 1). The type refuses a registry that is
not well formed, as 00_scope.md R6 asks: none is a value of the parameter (log 4). -/
opaque Config.registryEntries : Vector RegistryEntry Config.nproto

/-- REGISTRY of this instance: a list of NPROTO definitions (00_scope.md R5). -/
def Config.registry : List Definition := Config.registryEntries.toList.map RegistryEntry.definition

end Sys2Proof
end

