-- ==== Sys2Proof/Decode.lean ====
section
/-! DEFINITION. The encodings of 30_encoding.md and the address map of 20_memory.md R35: bit fields and byte order, the
command word (decoder, then encoder), the pulse word, the registry entry, the window's words, and the script line. -/

namespace Sys2Proof

-- Halves of a 64-bit pair and bytes of a word

/-- `X_LO` = X[31:0] (30_encoding.md R62). -/
def loHalf (x : Wide) : Word := x.extractLsb' 0 32

/-- `X_HI` = X[63:32] (30_encoding.md R62). -/
def hiHalf (x : Wide) : Word := x.extractLsb' 32 32

/-- The value `{X_HI, X_LO}` of a pair (30_encoding.md R62, R65). -/
def joinHalves (hi lo : Word) : Wide := hi ++ lo

/-- The four bytes of a word in a byte-addressed space, bit 0 in the byte at the lowest address (20_memory.md R38). -/
def wordBytes (w : Word) : List Byte :=
  [w.extractLsb' 0 8, w.extractLsb' 8 8, w.extractLsb' 16 8, w.extractLsb' 24 8]

/-- The word whose bytes, lowest address first, are these (20_memory.md R38). -/
def wordOfBytes (b0 b1 b2 b3 : Byte) : Word := b3 ++ b2 ++ b1 ++ b0

-- The command word

/-- Why bytes are no command. -/
inductive DecodeError where
  /-- Fewer than four bytes: a command is one whole word (30_encoding.md R50). -/
  | truncated
  /-- Bits 31:8 are not zero (30_encoding.md R54). -/
  | reservedBits
  /-- Opcode 0x04..0x0E or 0x10..0xFF (30_encoding.md R54). -/
  | reservedOpcode
  deriving DecidableEq, Repr

/-- The field `op`, bits 7:0 (30_encoding.md R51). -/
def opField (w : Word) : BitVec 8 := w.extractLsb' 0 8

/-- The field `rsv`, bits 31:8 (30_encoding.md R51). -/
def rsvField (w : Word) : BitVec 24 := w.extractLsb' 8 24

/-- The command an opcode names (30_encoding.md R52). -/
def decodeOp (op : BitVec 8) : Except DecodeError Instr :=
  match op.toNat with
  | 0x00 => .ok .nop
  | 0x01 => .ok .decode
  | 0x02 => .ok .chkdup
  | 0x03 => .ok .event
  | 0x0F => .ok .reset
  | _ => .error .reservedOpcode

/-- The command a word written to CMD issues: the whole word must be one of the five (30_encoding.md R52, R54). -/
def decodeWord (w : Word) : Except DecodeError Instr :=
  if rsvField w = 0 then decodeOp (opField w) else .error .reservedBits

/-- The command in the first word of some bytes, and the bytes after it. -/
def decode (bytes : List Byte) : Except DecodeError (Instr × List Byte) :=
  match bytes with
  | b0 :: b1 :: b2 :: b3 :: rest => (decodeWord (wordOfBytes b0 b1 b2 b3)).map fun i => (i, rest)
  | _ => .error .truncated

/-- The command word of a command (30_encoding.md R52). -/
def encodeWord (i : Instr) : Word :=
  match i with
  | .nop => 0x00000000
  | .decode => 0x00000001
  | .chkdup => 0x00000002
  | .event => 0x00000003
  | .reset => 0x0000000F

/-- The bytes of a command's one word. -/
def encode (i : Instr) : List Byte := wordBytes (encodeWord i)

/-- The command the decoder reads from the `nbits` bits `w` of a row of opcode_table.json, the bits above them zero. A number
that does not fit one word is no command: there is one command format, one word long (30_encoding.md R50, R63). -/
def decodeTableWord (nbits w : Nat) : Option Instr :=
  if w % 2 ^ nbits < 2 ^ 32 then
    match decode (wordBytes (BitVec.ofNat 32 (w % 2 ^ nbits))) with
    | .ok (i, _) => some i
    | .error _ => none
  else none

-- The pulse word

/-- A pulse as 16 bits: level in bit 15, duration in bits 14:0 (30_encoding.md R55). -/
def pulseToHalf (p : Pulse) : BitVec 16 := BitVec.ofBool p.lvl ++ p.dur

/-- The pulse of 16 bits; every value is a legal pulse (30_encoding.md R55). -/
def halfToPulse (h : BitVec 16) : Pulse := ⟨h.extractLsb' 0 15, h.getLsbD 15⟩

/-- PULSE[w]: the even slot in bits 15:0, the odd slot in bits 31:16 (30_encoding.md R56). -/
def pulsesToWord (even odd : Pulse) : Word := pulseToHalf odd ++ pulseToHalf even

/-- The even slot of a pulse word (30_encoding.md R56). -/
def wordToEvenPulse (w : Word) : Pulse := halfToPulse (w.extractLsb' 0 16)

/-- The odd slot of a pulse word (30_encoding.md R56). -/
def wordToOddPulse (w : Word) : Pulse := halfToPulse (w.extractLsb' 16 16)

-- The registry entry

/-- REG_W0 (30_encoding.md R57). -/
def definitionWord0 (d : Definition) : Word :=
  (0 : BitVec 6) ++ BitVec.ofBool d.addLastPulse ++ BitVec.ofBool d.inverted ++ d.tol ++ d.family ++ d.id

/-- REG_W1 (30_encoding.md R57). -/
def definitionWord1 (d : Definition) : Word := d.sync.low ++ d.sync.high ++ d.base

/-- REG_W2 (30_encoding.md R57). -/
def definitionWord2 (d : Definition) : Word := d.one.low ++ d.one.high ++ d.zero.low ++ d.zero.high

/-- The ROM slot of a definition; the fourth word is reserved and 0 (30_encoding.md R57). -/
def definitionToRomSlot (d : Definition) : RomSlot := ⟨definitionWord0 d, definitionWord1 d, definitionWord2 d, 0⟩

/-- The fields of three registry words, the reserved bits left aside (30_encoding.md R57). -/
def wordsToDefinition (w0 w1 w2 : Word) : Definition where
  id := w0.extractLsb' 0 8
  family := w0.extractLsb' 8 8
  tol := w0.extractLsb' 16 8
  inverted := w0.getLsbD 24
  addLastPulse := w0.getLsbD 25
  base := w1.extractLsb' 0 16
  sync := ⟨w1.extractLsb' 16 8, w1.extractLsb' 24 8⟩
  zero := ⟨w2.extractLsb' 0 8, w2.extractLsb' 8 8⟩
  one := ⟨w2.extractLsb' 16 8, w2.extractLsb' 24 8⟩

/-- Why a ROM image is no registry of an instance (00_scope.md R6; U1, U2, U5, U20). -/
inductive RegistryError where
  /-- Bits 31:26 of REG_W0 or the fourth word are not zero (U5). -/
  | reservedBits
  /-- The family is not PWM (U2). -/
  | reservedFamily
  /-- The tolerance is above 100 (U1). -/
  | toleranceAbove100
  /-- More than 128 entries (U20). -/
  | tooManyEntries
  deriving DecidableEq, Repr

/-- The definition of a ROM slot, refused where 00_scope.md R6 says an entry is not well formed. -/
def romSlotToDefinition (r : RomSlot) : Except RegistryError Definition :=
  if r.w0.extractLsb' 26 6 ≠ 0 ∨ r.w3 ≠ 0 then .error .reservedBits
  else if (wordsToDefinition r.w0 r.w1 r.w2).family ≠ Config.familyPwm then .error .reservedFamily
  else if Config.tolMax < (wordsToDefinition r.w0 r.w1 r.w2).tol.toNat then .error .toleranceAbove100
  else .ok (wordsToDefinition r.w0 r.w1 r.w2)

/-- The definitions of a list of ROM slots, the first bad slot's reason where one is bad. -/
def romSlotsToDefinitions : List RomSlot → Except RegistryError (List Definition)
  | [] => .ok []
  | r :: rs => do
    let d ← romSlotToDefinition r
    let ds ← romSlotsToDefinitions rs
    pure (d :: ds)

/-- The registry of a ROM image, refused where 00_scope.md R6 or U20 says so. -/
def romImageToRegistry (image : List RomSlot) : Except RegistryError (List Definition) :=
  if Config.protoMax < image.length then .error .tooManyEntries else romSlotsToDefinitions image

-- The window map

/-- The byte offset of a named word (20_memory.md R35). -/
def regOffset (r : Reg) : Nat :=
  match r with
  | .cmd => 0x000
  | .status => 0x004
  | .pcount => 0x008
  | .nproto => 0x00C
  | .timeLo => 0x010
  | .timeHi => 0x014
  | .argBits => 0x018
  | .argValLo => 0x01C
  | .argValHi => 0x020
  | .resId => 0x024
  | .resBits => 0x028
  | .resValLo => 0x02C
  | .resValHi => 0x030
  | .pulse w => 0x100 + 4 * w
  | .logLastLo i => 0x400 + 32 * i
  | .logLastHi i => 0x400 + 32 * i + 4
  | .logValLo i => 0x400 + 32 * i + 8
  | .logValHi i => 0x400 + 32 * i + 12
  | .logBits i => 0x400 + 32 * i + 16
  | .regW0 k => 0x800 + 16 * k
  | .regW1 k => 0x800 + 16 * k + 4
  | .regW2 k => 0x800 + 16 * k + 8

/-- `bus_addr` of a named word: the byte offset divided by 4 (20_memory.md R34). -/
def regAddr (r : Reg) : BusAddr := BitVec.ofNat 10 (regOffset r / 4)

/-- The host's access right to a named word (20_memory.md R35). -/
def regAccess (r : Reg) : Access :=
  match r with
  | .cmd => .writeOnly
  | .status => .readOnly
  | .pcount => .readWrite
  | .nproto => .readOnly
  | .timeLo => .readWrite
  | .timeHi => .readWrite
  | .argBits => .readWrite
  | .argValLo => .readWrite
  | .argValHi => .readWrite
  | .resId => .readOnly
  | .resBits => .readOnly
  | .resValLo => .readOnly
  | .resValHi => .readOnly
  | .pulse _ => .readWrite
  | .logLastLo _ => .readOnly
  | .logLastHi _ => .readOnly
  | .logValLo _ => .readOnly
  | .logValHi _ => .readOnly
  | .logBits _ => .readOnly
  | .regW0 _ => .readOnly
  | .regW1 _ => .readOnly
  | .regW2 _ => .readOnly

/-- The named word among the first 64 of the window, by word number (20_memory.md R35). -/
def locateScalar (n : Nat) : Option Reg :=
  match n with
  | 0 => some .cmd
  | 1 => some .status
  | 2 => some .pcount
  | 3 => some .nproto
  | 4 => some .timeLo
  | 5 => some .timeHi
  | 6 => some .argBits
  | 7 => some .argValLo
  | 8 => some .argValHi
  | 9 => some .resId
  | 10 => some .resBits
  | 11 => some .resValLo
  | 12 => some .resValHi
  | _ => none

/-- Word `j` of the 32-byte slot of log entry `i` (20_memory.md R35). -/
def locateLog (i : Fin 20) (j : Nat) : Option Reg :=
  match j with
  | 0 => some (.logLastLo i)
  | 1 => some (.logLastHi i)
  | 2 => some (.logValLo i)
  | 3 => some (.logValHi i)
  | 4 => some (.logBits i)
  | _ => none

/-- Word `j` of the 16-byte slot of registry entry `k` (20_memory.md R35). -/
def locateRegistry (k : Fin 128) (j : Nat) : Option Reg :=
  match j with
  | 0 => some (.regW0 k)
  | 1 => some (.regW1 k)
  | 2 => some (.regW2 k)
  | _ => none

/-- The named word at a word address, `none` for a reserved word (20_memory.md R35). The slots k >= NPROTO of the registry
window are named here and read as 0 (20_memory.md R42). -/
def locate (a : BusAddr) : Option Reg :=
  if a.toNat < 0x40 then locateScalar a.toNat
  else if h : a.toNat < 0x80 then some (.pulse ⟨a.toNat - 0x40, by omega⟩)
  else if a.toNat < 0x100 then none
  else if h : a.toNat < 0x1A0 then locateLog ⟨(a.toNat - 0x100) / 8, by omega⟩ ((a.toNat - 0x100) % 8)
  else if a.toNat < 0x200 then none
  else locateRegistry ⟨(a.toNat - 0x200) / 4, by omega⟩ ((a.toNat - 0x200) % 4)

/-- The word of the low half of a pair (30_encoding.md R62). -/
def pairLo (p : Pair) : Reg :=
  match p with
  | .time => .timeLo
  | .argVal => .argValLo
  | .resVal => .resValLo
  | .logLast i => .logLastLo i
  | .logVal i => .logValLo i

/-- The word of the high half of a pair (30_encoding.md R62). -/
def pairHi (p : Pair) : Reg :=
  match p with
  | .time => .timeHi
  | .argVal => .argValHi
  | .resVal => .resValHi
  | .logLast i => .logLastHi i
  | .logVal i => .logValHi i

-- Script lines

/-- Why a script line's encoding is no transfer of this port (U12). -/
inductive TransferError where
  /-- The byte offset is not a multiple of 4 (20_memory.md R39). -/
  | misaligned
  /-- The byte offset is not below 0x1000 (20_memory.md R33). -/
  | outsideWindow
  /-- A write without data, or a read with data (30_encoding.md R64). -/
  | badData
  /-- A pulse train longer than the 128 slots (10_state.md R24). -/
  | trainTooLong
  deriving DecidableEq, Repr

/-- `bus_addr` of a byte offset, refused where the port cannot express the access (20_memory.md R39; log 6). -/
def offsetToAddr (offset : Nat) : Except TransferError BusAddr :=
  if offset % 4 ≠ 0 then .error .misaligned
  else if 4096 ≤ offset then .error .outsideWindow
  else .ok (BitVec.ofNat 10 (offset / 4))

/-- The transfer of an encoded script line (30_encoding.md R64). -/
def tripleToEvent (t : Triple) : Except TransferError HostEvent :=
  (offsetToAddr t.offset).bind fun a =>
    match t.we, t.data with
    | true, some v => .ok (.write a v)
    | false, none => .ok (.read a)
    | _, _ => .error .badData

/-- The encoding of a transfer (30_encoding.md R64); a hardware reset is no transfer and has none. -/
def eventToTriple (e : HostEvent) : Option Triple :=
  match e with
  | .read a => some ⟨false, 4 * a.toNat, none⟩
  | .write a v => some ⟨true, 4 * a.toNat, some v⟩
  | .hardReset => none

end Sys2Proof
end

