-- ==== Sys2Proof/Machine/State.lean ====
section
/-! DEFINITION. The state of RFDEC (10_state.md R10), the model's own fields beside it, the state after reset
(10_state.md R32), and the reasons a step could stop. -/

namespace Sys2Proof.Machine

/-- A step that faults: there is none, "under any input" (60_exceptions.md R109), so the type has no constructor. Safe: no claim can
lean on a fault. -/
inductive Fault where
  deriving DecidableEq, Repr

/-- Why a step would be refused. -/
inductive Refusal where
  /-- An instruction without a meaning, named. Raised by no arm: all five commands have their meaning. Safe. -/
  | notModelled (mnemonic : String)
  deriving DecidableEq, Repr

/-- The architectural state, exactly the list of 10_state.md R10. -/
structure Block where
  /-- PCOUNT (10_state.md R11). -/
  pcount : BitVec 8
  /-- TIME, microseconds (10_state.md R12). -/
  time : Wide
  /-- ARG_BITS (10_state.md R13). -/
  argBits : BitVec 7
  /-- ARG_VAL (10_state.md R14). -/
  argVal : Wide
  /-- RES_ID (10_state.md R15). -/
  resId : BitVec 8
  /-- RES_BITS (10_state.md R16). -/
  resBits : BitVec 7
  /-- RES_VAL (10_state.md R17). -/
  resVal : Wide
  /-- STATUS.MATCH (10_state.md R19). -/
  matchFlag : Bool
  /-- STATUS.DUP (10_state.md R20). -/
  dupFlag : Bool
  /-- STATUS.CMDERR (10_state.md R21). -/
  cmdErr : Bool
  /-- The pulse buffer P(0)..P(127) (10_state.md R24). -/
  pulses : Vector Pulse 128
  /-- The duplicate log LOG[0]..LOG[19] (10_state.md R26). -/
  log : Vector LogEntry 20
  deriving DecidableEq, Repr

/-- The machine: the block's state, the constants of the instance, and the host's side of the port. -/
structure State where
  /-- The block's architectural state. -/
  block : Block
  /-- REGISTRY: constants of the instance, "parameters of the model" (10_state.md R29, R31), which no step writes. DESIGN CHOICE
  (safe): carried in the state, so that a statement about every state is about every registry (log 1). -/
  registry : List Definition
  /-- The host's events still to come, the next one first: the host script (30_encoding.md R64; log 2). -/
  script : List HostEvent
  /-- The values the `RD` transfers returned, oldest first (70_reset_and_hazards.md R138; log 2). -/
  returned : List Word
  deriving DecidableEq, Repr

/-- A pulse slot after reset (10_state.md R32). -/
def pulseReset : Pulse := ⟨0, false⟩

/-- A log entry after reset (10_state.md R32). -/
def logEntryReset : LogEntry := ⟨0, 0, 0⟩

/-- The block after reset: the table of 10_state.md R32. -/
def Block.reset : Block where
  pcount := 0
  time := 0
  argBits := 0
  argVal := 0
  resId := 0
  resBits := 0
  resVal := 0
  matchFlag := false
  dupFlag := false
  cmdErr := false
  pulses := Vector.replicate 128 pulseReset
  log := Vector.replicate 20 logEntryReset

/-- The machine right after reset: the block as 10_state.md R32 says, the instance's registry, no transfer asked for yet. -/
def State.reset : State where
  block := Block.reset
  registry := Config.registry
  script := []
  returned := []

end Sys2Proof.Machine
end

