-- ==== Sys2Proof/Machine/Operands.lean ====
section
/-! DEFINITION. Operand assembly: every operand of every command is read from a named register or the pulse buffer
(30_encoding.md R53). -/

namespace Sys2Proof.Machine

/-- The operands of DECODE: n and the pulse slots (41_decoder.md R75). -/
structure Train where
  n : Nat
  pulses : Vector Pulse 128
  deriving DecidableEq, Repr

/-- The operands of CHKDUP: t, b, v (42_dupfilter.md R91). -/
structure Signal where
  time : Wide
  bits : BitVec 7
  val : Wide
  deriving DecidableEq, Repr

/-- DECODE and EVENT take n from PCOUNT and the pulses from the buffer (30_encoding.md R53). -/
def Block.train (b : Block) : Train := ⟨b.pcount.toNat, b.pulses⟩

/-- CHKDUP takes the time from TIME, the bit count from ARG_BITS, the value from ARG_VAL (30_encoding.md R53). -/
def Block.signal (b : Block) : Signal := ⟨b.time, b.argBits, b.argVal⟩

/-- P(i) of a train (00_scope.md R9). An index outside the buffer has no pulse; DECODE uses none (41_decoder.md R88), so the reset pulse
that stands for it is never looked at (log 7). -/
def Train.pulse (t : Train) (i : Nat) : Pulse := t.pulses[i]?.getD pulseReset

end Sys2Proof.Machine
end

