-- ==== Sys2Proof/Machine/Matcher.lean ====
section
/-! DEFINITION. The Pulse Matcher (40_matcher.md): pure functions over naturals, no state (40_matcher.md R71, R72). -/

namespace Sys2Proof.Machine

/-- EXPECT(r, u) = r × u, never truncated (40_matcher.md R67). -/
def expectedDuration (r : BitVec 8) (u : BitVec 16) : Nat := r.toNat * u.toNat

/-- EFFTOL(tol, widen): doubled when widened, not clamped (40_matcher.md R69). -/
def effectiveTolerance (tol : BitVec 8) (widen : Bool) : Nat := if widen then tol.toNat * 2 else tol.toNat

/-- |m - e|, the absolute difference of two naturals (00_scope.md R8, 40_matcher.md R72). -/
def absDiff (m e : Nat) : Nat := if e ≤ m then m - e else e - m

/-- INTOL(m, e, tol, widen): |m - e| × 100 < e × eff, exactly and strictly (40_matcher.md R68). -/
def inTolerance (m : BitVec 15) (e : Nat) (tol : BitVec 8) (widen : Bool) : Bool :=
  decide (absDiff m.toNat e * 100 < e * effectiveTolerance tol widen)

/-- MATCH(mh, ml, u, R, tol, widen, aml) (40_matcher.md R70; for its remark on a low of 0, log 8). -/
def matchPair (mh ml : BitVec 15) (u : BitVec 16) (r : Ratio) (tol : BitVec 8) (widen aml : Bool) : Bool :=
  if inTolerance mh (expectedDuration r.high u) tol widen then
    if aml && ml == 0 then true else inTolerance ml (expectedDuration r.low u) tol widen
  else false

end Sys2Proof.Machine
end

