-- ==== Sys2Proof/Machine/Flags.lean ====
section
/-! DEFINITION. The STATUS register: its word (30_encoding.md R60) and the ways a flag is written (10_state.md R19 to R21). -/

namespace Sys2Proof.Machine

/-- STATUS: bit 0 MATCH, bit 1 DUP, bit 2 CMDERR, bits 31:3 zero (10_state.md R18, 30_encoding.md R60). -/
def Block.statusWord (b : Block) : Word :=
  (0 : BitVec 29) ++ BitVec.ofBool b.cmdErr ++ BitVec.ofBool b.dupFlag ++ BitVec.ofBool b.matchFlag

/-- STATUS.DUP <- v (10_state.md R20). -/
def Block.setDup (b : Block) (v : Bool) : Block := { b with dupFlag := v }

/-- STATUS.CMDERR <- 1 (10_state.md R21). -/
def Block.raiseCmdErr (b : Block) : Block := { b with cmdErr := true }

end Sys2Proof.Machine
end

