-- ==== Sys2Proof/Machine/Ops.lean ====
section
/-! DEFINITION. The named operations on the state: writing a result, the arguments, a log entry, a pulse pair; reset; and the host's side of
the port. RFDEC takes no exception and returns from none (60_exceptions.md R109, R117, R118), so no operation here does. -/

namespace Sys2Proof.Machine

/-- A decode result `{protocolId, bitCount, value}` (30_encoding.md R66). -/
structure Decoded where
  id : BitVec 8
  bits : BitVec 7
  val : Wide
  deriving DecidableEq, Repr

/-- The optional decode result as it is encoded: MATCH with RES_ID, RES_BITS, RES_VAL, all zero on no match (30_encoding.md R66). -/
def Block.setResult (b : Block) (r : Option Decoded) : Block :=
  match r with
  | none => { b with matchFlag := false, resId := 0, resBits := 0, resVal := 0 }
  | some d => { b with matchFlag := true, resId := d.id, resBits := d.bits, resVal := d.val }

/-- ARG_BITS <- RES_BITS ; ARG_VAL <- RES_VAL, in EVENT (43_control.md R103). -/
def Block.argsFromResult (b : Block) : Block := { b with argBits := b.resBits, argVal := b.resVal }

/-- LOG[i] <- e (42_dupfilter.md R94, R96). -/
def Block.setLog (b : Block) (i : Fin 20) (e : LogEntry) : Block := { b with log := b.log.set i e }

/-- Both slots of pulse pair `w` at once (20_memory.md R37, 30_encoding.md R56). -/
def Block.setPulsePair (b : Block) (w : Fin 64) (even odd : Pulse) : Block :=
  { b with pulses := (b.pulses.set (2 * w) even).set (2 * w + 1) odd }

/-- Every piece of state takes its reset value, the registry is unchanged (43_control.md R104, 70_reset_and_hazards.md R125). The host's
script and what it has read are outside the block. -/
def State.resetBlock (s : State) : State := { s with block := Block.reset }

/-- The machine right after reset, made with the registry of a ROM image. An image that is no well-formed registry is given no meaning: the
instance is refused, with the reason (00_scope.md R6; U1, U2, U5, U20; log 4). -/
def State.ofRom (image : List RomSlot) : Except RegistryError State :=
  (romImageToRegistry image).map fun reg => { State.reset with registry := reg }

/-- The host's next event and the machine with that event taken from the script; `none` when the host asks for nothing more. -/
def State.nextEvent (s : State) : Option (HostEvent × State) :=
  match s.script with
  | [] => none
  | e :: rest => some (e, { s with script := rest })

/-- A read transfer hands its word to the host (20_memory.md R36, 70_reset_and_hazards.md R138). -/
def State.returnWord (s : State) (w : Word) : State := { s with returned := s.returned ++ [w] }

end Sys2Proof.Machine
end

