-- ==== Sys2Proof/Machine/Decoder.lean ====
section
/-! DEFINITION. The Protocol Decoder: DECODE and the function TRY, one definition per step of 41_decoder.md R78 to R87. -/

namespace Sys2Proof.Machine

/-- The ephemeral bit counter and accumulator of one TRY (10_state.md R30). -/
structure Accumulator where
  bits : Nat
  acc : Wide
  deriving DecidableEq, Repr

/-- Both start at 0 for every definition tried (41_decoder.md R77). -/
def accumulatorStart : Accumulator := ⟨0, 0⟩

/-- ACTIVE(d): logic-low when inverted, else logic-high (41_decoder.md R78). -/
def activeLevel (d : Definition) : Bool := if d.inverted then false else true

/-- LASTIDX(d, n): the index of the last usable pulse (41_decoder.md R79). -/
def lastUsable (d : Definition) (t : Train) : Nat :=
  if d.addLastPulse = false ∧ (t.pulse (t.n - 1)).dur = 0 then t.n - 2 else t.n - 1

/-- ALIGN(active): only the level of P(0) is ever read (41_decoder.md R80). -/
def alignCursor (active : Bool) (t : Train) : Nat := if (t.pulse 0).lvl = active then 0 else 1

/-- MATCH on the pair at cursor `c` against one symbol of a definition (41_decoder.md R81, R82). -/
def pairMatches (d : Definition) (t : Train) (c : Nat) (r : Ratio) (widen aml : Bool) : Bool :=
  matchPair (t.pulse c).dur (t.pulse (c + 1)).dur d.base r d.tol widen aml

/-- SYNC(d, c): at most one sync pair is consumed, always widened, never with a missing low (41_decoder.md R81). -/
def syncCursor (d : Definition) (t : Train) (c : Nat) : Nat :=
  if pairMatches d t c d.sync true false then c + 2 else c

/-- The cursor at which the symbol loop starts: steps 1, 3 and 4 (41_decoder.md R77). -/
def firstCursor (d : Definition) (t : Train) : Nat := syncCursor d t (alignCursor (activeLevel d) t)

/-- widen = (c ≤ 2) (41_decoder.md R83). -/
def widenAt (c : Nat) : Bool := decide (c ≤ 2)

/-- aml = (c + 1 = L) (41_decoder.md R84). -/
def missingLowAt (c l : Nat) : Bool := c + 1 == l

/-- The bit the pair at cursor `c` stands for: zero is tried first, then one; `none` when neither matches (41_decoder.md R82). -/
def symbolAt (d : Definition) (t : Train) (l c : Nat) : Option Bool :=
  if pairMatches d t c d.zero (widenAt c) (missingLowAt c l) then some false
  else if pairMatches d t c d.one (widenAt c) (missingLowAt c l) then some true
  else none

/-- ACC0 and ACC1: shift left by one and set the low bit on a one, mod 2^64 (41_decoder.md R85); the bit count goes up by one
(41_decoder.md R82). -/
def Accumulator.push (a : Accumulator) (bit : Bool) : Accumulator :=
  ⟨a.bits + 1, if bit then a.acc * 2 + 1 else a.acc * 2⟩

/-- The symbol loop (41_decoder.md R77, R82, R86): `none` when a pair matches neither symbol. The first argument bounds the number of
iterations so that the function is structurally recursive; each iteration moves the cursor by 2 towards `l`. -/
def symbolLoop (d : Definition) (t : Train) (l : Nat) : Nat → Nat → Accumulator → Option Accumulator
  | 0, c, a => if c < l then none else some a
  | k + 1, c, a =>
    if c < l then
      match symbolAt d t l c with
      | some bit => symbolLoop d t l k (c + 2) (a.push bit)
      | none => none
    else some a

/-- TRY(d, n) (41_decoder.md R77): bits and acc on success, `none` on failure. At most 64 iterations run (41_decoder.md R89), and the bound
`l` given to the loop is never reached with pulses left. -/
def tryDefinition (d : Definition) (t : Train) : Option Accumulator :=
  symbolLoop d t (lastUsable d t) (lastUsable d t) (firstCursor d t) accumulatorStart

/-- What one registry entry contributes: an entry whose family is not PWM is skipped (41_decoder.md R76); the identity is the entry's `id`
(41_decoder.md R87). -/
def attempt (t : Train) (d : Definition) : Option Decoded :=
  if d.family = Config.familyPwm then
    (tryDefinition d t).map fun a => ⟨d.id, BitVec.ofNat 7 a.bits, a.acc⟩
  else none

/-- n < MIN_PULSES or n > PULSE_CAP is Invalid-input (41_decoder.md R75, R90). -/
def Train.valid (t : Train) : Bool := decide (Config.minPulses ≤ t.n) && decide (t.n ≤ Config.pulseCap)

/-- The decode result of a train: the first entry in registry order that matches (41_decoder.md R75, R87), none for Invalid-input and
No-protocol-match (41_decoder.md R90). -/
def decodeTrain (reg : List Definition) (t : Train) : Option Decoded :=
  if t.valid then reg.findSome? (attempt t) else none

/-- DECODE() (41_decoder.md R75): MATCH, RES_ID, RES_BITS, RES_VAL are written, always all four. -/
def Block.runDecode (b : Block) (reg : List Definition) : Block := b.setResult (decodeTrain reg b.train)

/-- The meaning of DECODE (41_decoder.md R75). -/
def execDecode (s : State) : Host.Outcome State Fault Refusal :=
  .next { s with block := s.block.runDecode s.registry }

end Sys2Proof.Machine
end

