-- ==== Sys2Proof/Machine/DupFilter.lean ====
section
/-! DEFINITION. The Duplicate Filter: CHKDUP, steps of 42_dupfilter.md R91 to R101. -/

namespace Sys2Proof.Machine

/-- nowMs = TIME div 1000 (42_dupfilter.md R92). -/
def nowMs (time : Wide) : Wide := time / 1000

/-- age = nowMs - last, an integer that may be negative (42_dupfilter.md R101). -/
def age (now last : Wide) : Int := (now.toNat : Int) - (last.toNat : Int)

/-- Older than the duplicate window, strictly (42_dupfilter.md R95, R96). -/
def expired (now : Wide) (e : LogEntry) : Bool := decide ((Config.windowMs : Int) < age now e.last)

/-- Equality is of the value and of nothing else (42_dupfilter.md R93, R99). -/
def holdsValue (v : Wide) (e : LogEntry) : Bool := e.val == v

/-- The smallest index whose entry satisfies `p`: the scans of 42_dupfilter.md R91, in index order. -/
def firstEntry (p : LogEntry → Bool) (log : Vector LogEntry 20) : Option (Fin 20) :=
  (List.finRange 20).find? fun i => p log[i]

/-- CHKDUP() (42_dupfilter.md R91): value match, else claim of the first stale entry, else Log-saturation. -/
def Block.runChkdup (b : Block) : Block :=
  match firstEntry (holdsValue b.signal.val) b.log with
  | some i =>
    (b.setLog i ⟨nowMs b.signal.time, b.signal.bits, b.log[i].val⟩).setDup (!expired (nowMs b.signal.time) b.log[i])
  | none =>
    match firstEntry (expired (nowMs b.signal.time)) b.log with
    | some i => (b.setLog i ⟨nowMs b.signal.time, b.signal.bits, b.signal.val⟩).setDup false
    | none => b.setDup false

/-- The meaning of CHKDUP (42_dupfilter.md R91). -/
def execChkdup (s : State) : Host.Outcome State Fault Refusal :=
  .next { s with block := s.block.runChkdup }

end Sys2Proof.Machine
end

