-- ==== Sys2Proof/Machine/Control.lean ====
section
/-! DEFINITION. The control commands NOP, EVENT, RESET and what an illegal command word does (43_control.md). -/

namespace Sys2Proof.Machine

/-- The meaning of NOP: nothing changes (43_control.md R102). -/
def execNop (s : State) : Host.Outcome State Fault Refusal := .next s

/-- EVENT() (43_control.md R103): DECODE, then on a match the filter on its result, else DUP <- 0. -/
def Block.runEvent (b : Block) (reg : List Definition) : Block :=
  if (b.runDecode reg).matchFlag then (b.runDecode reg).argsFromResult.runChkdup else (b.runDecode reg).setDup false

/-- The meaning of EVENT (43_control.md R103). -/
def execEvent (s : State) : Host.Outcome State Fault Refusal :=
  .next { s with block := s.block.runEvent s.registry }

/-- The meaning of RESET (43_control.md R104). -/
def execReset (s : State) : Host.Outcome State Fault Refusal := .next s.resetBlock

/-- ILLEGAL(): CMDERR <- 1 and nothing else (43_control.md R106). -/
def State.illegalCommand (s : State) : State := { s with block := s.block.raiseCmdErr }

end Sys2Proof.Machine
end

