-- ==== Sys2Proof/Machine/Dispatch.lean ====
section
/-! DEFINITION. The dispatch of 43_control.md R105: one arm per command. -/

namespace Sys2Proof.Machine

def exec (i : Instr) (s : State) : Host.Outcome State Fault Refusal :=
  match i with
  | .nop => Sys2Proof.Machine.execNop s
  | .decode => Sys2Proof.Machine.execDecode s
  | .chkdup => Sys2Proof.Machine.execChkdup s
  | .event => Sys2Proof.Machine.execEvent s
  | .reset => Sys2Proof.Machine.execReset s

end Sys2Proof.Machine
end

