-- ==== Sys2Proof/Machine/Window.lean ====
section
/-! DEFINITION. The register window: what a read of a word returns (20_memory.md R36) and what a write of a word other than CMD stores
(20_memory.md R37). The words are computed from the named fields; no memory lies behind them (log 3). -/

namespace Sys2Proof.Machine

/-- A word of registry entry `k`; a slot k >= NPROTO reads as 0 (20_memory.md R42). -/
def registryWord (reg : List Definition) (k : Fin 128) (f : Definition → Word) : Word :=
  match reg[k.val]? with
  | some d => f d
  | none => 0

/-- The word a named register reads as, zero-extended to 32 bits; CMD reads as 0 (20_memory.md R36; layouts 30_encoding.md R56 to R62). -/
def readReg (reg : List Definition) (b : Block) (r : Reg) : Word :=
  match r with
  | .cmd => 0
  | .status => b.statusWord
  | .pcount => b.pcount.setWidth 32
  | .nproto => (BitVec.ofNat 8 reg.length).setWidth 32
  | .timeLo => loHalf b.time
  | .timeHi => hiHalf b.time
  | .argBits => b.argBits.setWidth 32
  | .argValLo => loHalf b.argVal
  | .argValHi => hiHalf b.argVal
  | .resId => b.resId.setWidth 32
  | .resBits => b.resBits.setWidth 32
  | .resValLo => loHalf b.resVal
  | .resValHi => hiHalf b.resVal
  | .pulse w => pulsesToWord b.pulses[2 * w.val] b.pulses[2 * w.val + 1]
  | .logLastLo i => loHalf b.log[i].last
  | .logLastHi i => hiHalf b.log[i].last
  | .logValLo i => loHalf b.log[i].val
  | .logValHi i => hiHalf b.log[i].val
  | .logBits i => b.log[i].bits.setWidth 32
  | .regW0 k => registryWord reg k definitionWord0
  | .regW1 k => registryWord reg k definitionWord1
  | .regW2 k => registryWord reg k definitionWord2

/-- MemRead: the word at a word address, 0 for a reserved word (20_memory.md R36, R42). -/
def readWord (reg : List Definition) (b : Block) (a : BusAddr) : Word :=
  match locate a with
  | some r => readReg reg b r
  | none => 0

/-- What a write stores in a named register: an RW register takes its bits of the word and the others are discarded (20_memory.md R37); a
read-only register keeps its value (20_memory.md R42). CMD stores nothing: it "holds nothing" (10_state.md R23). -/
def writeReg (b : Block) (r : Reg) (v : Word) : Block :=
  match r with
  | .cmd => b
  | .status => b
  | .pcount => { b with pcount := v.setWidth 8 }
  | .nproto => b
  | .timeLo => { b with time := joinHalves (hiHalf b.time) v }
  | .timeHi => { b with time := joinHalves v (loHalf b.time) }
  | .argBits => { b with argBits := v.setWidth 7 }
  | .argValLo => { b with argVal := joinHalves (hiHalf b.argVal) v }
  | .argValHi => { b with argVal := joinHalves v (loHalf b.argVal) }
  | .resId => b
  | .resBits => b
  | .resValLo => b
  | .resValHi => b
  | .pulse w => b.setPulsePair w (wordToEvenPulse v) (wordToOddPulse v)
  | .logLastLo _ => b
  | .logLastHi _ => b
  | .logValLo _ => b
  | .logValHi _ => b
  | .logBits _ => b
  | .regW0 _ => b
  | .regW1 _ => b
  | .regW2 _ => b

/-- The storing half of MemWrite, for every word but CMD (20_memory.md R37); a reserved word ignores the write (20_memory.md R42). -/
def writeWord (b : Block) (a : BusAddr) (v : Word) : Block :=
  match locate a with
  | some r => writeReg b r v
  | none => b

/-- The byte of the window at a byte offset, little-endian (20_memory.md R38); there is none above the window. -/
def readByte (reg : List Definition) (b : Block) (offset : Nat) : Option Byte :=
  if offset < 4096 then (wordBytes (readWord reg b (BitVec.ofNat 10 (offset / 4))))[offset % 4]? else none

end Sys2Proof.Machine
end

