-- ==== Sys2Proof/Machine/Port.lean ====
section
/-! DEFINITION. What one host event does at the port (20_memory.md R36, R37; 43_control.md R105; 70_reset_and_hazards.md R125). -/

namespace Sys2Proof.Machine

/-- A write to CMD issues the command word: the command runs to completion inside the write (43_control.md R105), an illegal word sets
CMDERR (43_control.md R106). -/
def issue (w : Word) (s : State) : Host.Outcome State Fault Refusal :=
  match decodeWord w with
  | .ok i => exec i s
  | .error _ => .next s.illegalCommand

/-- One event: MemRead (20_memory.md R36), MemWrite (20_memory.md R37), or hardware reset (70_reset_and_hazards.md R125). -/
def perform (e : HostEvent) (s : State) : Host.Outcome State Fault Refusal :=
  match e with
  | .read a => .next (s.returnWord (readWord s.registry s.block a))
  | .write a v =>
    if locate a = some .cmd then issue v s else .next { s with block := writeWord s.block a v }
  | .hardReset => .next s.resetBlock

end Sys2Proof.Machine
end

