-- ==== Sys2Proof/Machine/Step.lean ====
section
/-! DEFINITION. One step of the machine: one event of the host (00_scope.md R7). -/

namespace Sys2Proof.Machine

/-- One step: the host's next event. With none left the block is idle and nothing moves (70_reset_and_hazards.md R138). -/
def step (s : State) : Host.Outcome State Fault Refusal :=
  match s.nextEvent with
  | none => .next s
  | some (e, s') => perform e s'

/-- The state whose next event is the write of a command word to CMD: the word of `nbits` bits `w`, the bits above them zero. The rest of the
script follows it; nothing else changes. -/
def State.withFetchWord (s : State) (nbits w : Nat) : State :=
  { s with script := .write (regAddr .cmd) (BitVec.ofNat 32 (w % 2 ^ nbits)) :: s.script }

end Sys2Proof.Machine
end

