-- ==== Sys2Proof/Machine/Script.lean ====
section
/-! DEFINITION. Host scripts: the transfers each line stands for (30_encoding.md R64, R65). -/

namespace Sys2Proof.Machine

/-- A pulse slot that a train of odd length leaves open is written as 0x0000 (30_encoding.md R65). -/
def missingPulse : Pulse := halfToPulse 0x0000

/-- The PULSE writes of `LOADP`, from pulse word `w` on (30_encoding.md R65). -/
def pulseWrites (w : Nat) (train : List Pulse) : List HostEvent :=
  match train with
  | [] => []
  | [p] => [.write (BitVec.ofNat 10 (0x40 + w)) (pulsesToWord p missingPulse)]
  | p :: q :: rest => .write (BitVec.ofNat 10 (0x40 + w)) (pulsesToWord p q) :: pulseWrites (w + 1) rest

/-- `WR r, v` with a register name (30_encoding.md R64). -/
def writeLine (r : Reg) (v : Word) : HostEvent := .write (regAddr r) v

/-- `RD r` with a register name (30_encoding.md R64). -/
def readLine (r : Reg) : HostEvent := .read (regAddr r)

/-- `WR64 X, v`: the low half, then the high half (30_encoding.md R65). -/
def writePair (p : Pair) (v : Wide) : List HostEvent := [writeLine (pairLo p) (loHalf v), writeLine (pairHi p) (hiHalf v)]

/-- The transfers of a script line (30_encoding.md R64, R65), refused where the port cannot express it (20_memory.md R39) or the train does not
fit the buffer (10_state.md R24). -/
def expandLine (l : ScriptLine) : Except TransferError (List HostEvent) :=
  match l with
  | .wr r v => .ok [writeLine r v]
  | .rd r => .ok [readLine r]
  | .wrAt o v => (offsetToAddr o).map fun a => [.write a v]
  | .rdAt o => (offsetToAddr o).map fun a => [.read a]
  | .cmd i => .ok [writeLine .cmd (encodeWord i)]
  | .wr64 p v => .ok (writePair p v)
  | .rd64 p => .ok [readLine (pairLo p), readLine (pairHi p)]
  | .loadp t =>
    if Config.pulseCap < t.length then .error .trainTooLong
    else .ok (pulseWrites 0 t ++ [writeLine .pcount (BitVec.ofNat 32 t.length)])
  | .dupq t b v =>
    .ok (writePair .time t ++ [writeLine .argBits b] ++ writePair .argVal v
      ++ [writeLine .cmd (encodeWord .chkdup), readLine .status])

/-- The transfers of a script, line after line (30_encoding.md R64). -/
def expandScript : List ScriptLine → Except TransferError (List HostEvent)
  | [] => .ok []
  | l :: ls => do
    let es ← expandLine l
    let rest ← expandScript ls
    pure (es ++ rest)

end Sys2Proof.Machine
end

