-- ==== Sys2Proof/Safety.lean ====
section
/-! DEFINITION. What claims speak of: the invariant of a run, and the terms in which the spec describes trains, values and scripts. -/

namespace Sys2Proof.Machine

/-- The result registers agree with MATCH: on a match the bit count is in 6..64 (41_decoder.md R89), the value has no bit above it
(10_state.md R17) and the identity is that of a PWM entry of the registry (41_decoder.md R76, R87); otherwise all three are 0
(30_encoding.md R66). -/
def Block.ResultOk (b : Block) (reg : List Definition) : Prop :=
  if b.matchFlag then
    6 ≤ b.resBits.toNat ∧ b.resBits.toNat ≤ 64 ∧ b.resVal.toNat < 2 ^ b.resBits.toNat
      ∧ ∃ d ∈ reg, d.family = Config.familyPwm ∧ d.id = b.resId
  else b.resId = 0 ∧ b.resBits = 0 ∧ b.resVal = 0

/-- Non-zero values in the log are pairwise different (10_state.md R27 (b)). -/
def Block.LogDistinct (b : Block) : Prop :=
  ∀ i j : Fin 20, i ≠ j → b.log[i].val = b.log[j].val → b.log[i].val = 0

/-- Every stored time is below 2^55 (42_dupfilter.md R92, R101). -/
def Block.LogTimes (b : Block) : Prop := ∀ i : Fin 20, b.log[i].last.toNat < 2 ^ 55

/-- What holds of every state that a run from reset reaches. -/
structure State.Inv (s : State) : Prop where
  registry : registryWf s.registry = true
  result : s.block.ResultOk s.registry
  distinct : s.block.LogDistinct
  times : s.block.LogTimes

/-- The number whose binary digits, most significant first, are these: "accumulated MSB-first" (10_state.md R17, 41_decoder.md R85). -/
def msbValue (bits : List Bool) : Nat := bits.foldl (fun v b => 2 * v + b.toNat) 0

/-- A pulse pair with exactly the expected durations of a ratio, at the definition's active level and then the other one
(40_matcher.md R67; 95_test_vectors.md E1). -/
def exactPair (d : Definition) (r : Ratio) : List Pulse :=
  [⟨BitVec.ofNat 15 (expectedDuration r.high d.base), activeLevel d⟩,
   ⟨BitVec.ofNat 15 (expectedDuration r.low d.base), !activeLevel d⟩]

/-- The ratio of a symbol: zero or one. -/
def symbolRatio (d : Definition) (bit : Bool) : Ratio := if bit then d.one else d.zero

/-- "A synthetically constructed pulse sequence whose pair timings exactly equal ratio × baseUnit for a chosen N-bit pattern"
(95_test_vectors.md E1), with or without a leading sync pair. -/
def exactTrain (d : Definition) (withSync : Bool) (bits : List Bool) : List Pulse :=
  (if withSync then exactPair d d.sync else []) ++ bits.flatMap fun b => exactPair d (symbolRatio d b)

/-- The six expected durations of a definition can be measured: each is 1 to 32767 (40_matcher.md R73 (a), 00_scope.md R5 DUR_BITS). -/
def DurationsMeasurable (d : Definition) : Prop :=
  ∀ r ∈ [d.sync, d.zero, d.one], ∀ c ∈ [r.high, r.low],
    1 ≤ expectedDuration c d.base ∧ expectedDuration c d.base ≤ 32767

/-- The exact pair of ratio `r` is accepted as the symbol of ratio `q`, with `widen` (40_matcher.md R70). -/
def acceptsExact (d : Definition) (r q : Ratio) (widen : Bool) : Bool :=
  matchPair (BitVec.ofNat 15 (expectedDuration r.high d.base)) (BitVec.ofNat 15 (expectedDuration r.low d.base))
    d.base q d.tol widen false

/-- The pulse buffer holds the train from slot 0 on, and PCOUNT its length (10_state.md R11, R24). -/
def Block.HoldsTrain (b : Block) (train : List Pulse) : Prop :=
  b.pcount.toNat = train.length ∧ ∀ i (h : i < train.length) (h' : i < 128), b.pulses[i] = train[i]

/-- The number a flag stands for in a word. -/
def flagValue (b : Bool) : Nat := if b then 1 else 0

/-- The number of a pulse: duration plus 2^15 times the level (30_encoding.md R55). -/
def pulseValue (p : Pulse) : Nat := p.dur.toNat + 2 ^ 15 * flagValue p.lvl

/-- Word `f` of registry entry `k` as a number, 0 above NPROTO (20_memory.md R42). -/
def entryValue (reg : List Definition) (k : Fin 128) (f : Definition → Nat) : Nat :=
  match reg[k.val]? with
  | some d => f d
  | none => 0

/-- The number each named word reads as, by the layouts of 30_encoding.md R55 to R62, written with sums of fields times powers of two. -/
def mappedValue (s : State) (r : Reg) : Nat :=
  match r with
  | .cmd => 0
  | .status => flagValue s.block.matchFlag + 2 * flagValue s.block.dupFlag + 4 * flagValue s.block.cmdErr
  | .pcount => s.block.pcount.toNat
  | .nproto => s.registry.length
  | .timeLo => s.block.time.toNat % 2 ^ 32
  | .timeHi => s.block.time.toNat / 2 ^ 32
  | .argBits => s.block.argBits.toNat
  | .argValLo => s.block.argVal.toNat % 2 ^ 32
  | .argValHi => s.block.argVal.toNat / 2 ^ 32
  | .resId => s.block.resId.toNat
  | .resBits => s.block.resBits.toNat
  | .resValLo => s.block.resVal.toNat % 2 ^ 32
  | .resValHi => s.block.resVal.toNat / 2 ^ 32
  | .pulse w => pulseValue s.block.pulses[2 * w.val] + 2 ^ 16 * pulseValue s.block.pulses[2 * w.val + 1]
  | .logLastLo i => s.block.log[i].last.toNat % 2 ^ 32
  | .logLastHi i => s.block.log[i].last.toNat / 2 ^ 32
  | .logValLo i => s.block.log[i].val.toNat % 2 ^ 32
  | .logValHi i => s.block.log[i].val.toNat / 2 ^ 32
  | .logBits i => s.block.log[i].bits.toNat
  | .regW0 k => entryValue s.registry k fun d => d.id.toNat + 2 ^ 8 * d.family.toNat + 2 ^ 16 * d.tol.toNat
      + 2 ^ 24 * flagValue d.inverted + 2 ^ 25 * flagValue d.addLastPulse
  | .regW1 k => entryValue s.registry k fun d => d.base.toNat + 2 ^ 16 * d.sync.high.toNat + 2 ^ 24 * d.sync.low.toNat
  | .regW2 k => entryValue s.registry k fun d => d.zero.high.toNat + 2 ^ 8 * d.zero.low.toNat
      + 2 ^ 16 * d.one.high.toNat + 2 ^ 24 * d.one.low.toNat

/-- The reserved words of the window, by word number: byte offsets 0x034 to 0x0FC, 0x200 to 0x3FC, words 5 to 7 of a log slot, 0x680 to
0x7FC, word 3 of a registry slot (20_memory.md R35). -/
def ReservedWord (n : Nat) : Prop :=
  (13 ≤ n ∧ n < 64) ∨ (128 ≤ n ∧ n < 256) ∨ (256 ≤ n ∧ n < 416 ∧ 5 ≤ (n - 256) % 8) ∨ (416 ≤ n ∧ n < 512)
    ∨ (512 ≤ n ∧ (n - 512) % 4 = 3)

/-- The words a host write stores into, by word number: PCOUNT, TIME_LO, TIME_HI, ARG_BITS, ARG_VAL_LO, ARG_VAL_HI and the PULSE words
(20_memory.md R35, R37). -/
def StoringWord (n : Nat) : Prop := n = 2 ∨ (4 ≤ n ∧ n ≤ 8) ∨ (64 ≤ n ∧ n < 128)

/-- The log entry CHKDUP writes: the first that holds ARG_VAL, else the first stale one, else none (42_dupfilter.md R93, R96, R97). -/
def Block.chkdupTarget (b : Block) : Option (Fin 20) :=
  (firstEntry (holdsValue b.argVal) b.log).or (firstEntry (expired (nowMs b.time)) b.log)

/-- TIME div 1000 as a 64-bit time (42_dupfilter.md R92). -/
def msOf (time : Wide) : Wide := BitVec.ofNat 64 (time.toNat / 1000)

/-- The empty result written over a block (30_encoding.md R66, 41_decoder.md R90). -/
def Block.emptyResult (b : Block) : Block := { b with matchFlag := false, resId := 0, resBits := 0, resVal := 0 }

end Sys2Proof.Machine
end

