-- ==== Sys2Proof/Certificates/Slice0/Obligations.lean ====
section
/-! DEFINITION. What the provers are asked: statements about RFDEC taken from the numbered rules of the spec. -/

open Sys2Proof Sys2Proof.Machine

-- Encodings

/-- 30_encoding.md R52: the whole 32-bit word must be one of the five; every other word names no command. -/
def Obligations.CommandWordsAreExactlyTheTable : Prop :=
  ∀ (w : Word) (i : Instr), decodeWord w = .ok i ↔
    (w = 0x00000000 ∧ i = .nop) ∨ (w = 0x00000001 ∧ i = .decode) ∨ (w = 0x00000002 ∧ i = .chkdup) ∨
    (w = 0x00000003 ∧ i = .event) ∨ (w = 0x0000000F ∧ i = .reset)

/-- 30_encoding.md R52, R63: the bytes of a command decode to it and leave the bytes after them. -/
def Obligations.EncodedCommandDecodesToItself : Prop :=
  ∀ (i : Instr) (rest : List Byte), i.wf = true → decode (encode i ++ rest) = .ok (i, rest)

/-- 30_encoding.md R52 with 20_memory.md R38: the five command words as bytes, lowest address first. -/
def Obligations.CommandBytesDecodeAsWritten : Prop :=
  decode [0x00, 0x00, 0x00, 0x00] = .ok (.nop, []) ∧ decode [0x01, 0x00, 0x00, 0x00] = .ok (.decode, []) ∧
  decode [0x02, 0x00, 0x00, 0x00] = .ok (.chkdup, []) ∧ decode [0x03, 0x00, 0x00, 0x00] = .ok (.event, []) ∧
  decode [0x0F, 0x00, 0x00, 0x00] = .ok (.reset, []) ∧ decode [0x00, 0x01, 0x00, 0x00] = .error .reservedBits ∧
  decode [0x04, 0x00, 0x00, 0x00] = .error .reservedOpcode ∧ decode [0x00, 0x00, 0x00] = .error .truncated

/-- 30_encoding.md R57, R58 with 00_scope.md R6: a ROM slot is read as a definition exactly when it is that well-formed definition's slot. -/
def Obligations.RegistryEntryRoundTrip : Prop :=
  ∀ (r : RomSlot) (d : Definition),
    romSlotToDefinition r = .ok d ↔ d.wf = true ∧ definitionToRomSlot d = r

/-- 30_encoding.md R57 with 00_scope.md R6, for a whole ROM: an image is read as a registry exactly when it is that well-formed registry's
image. -/
def Obligations.RomImageRoundTrip : Prop :=
  ∀ (image : List RomSlot) (reg : List Definition),
    romImageToRegistry image = .ok reg ↔ registryWf reg = true ∧ image = reg.map definitionToRomSlot

/-- 00_scope.md R6: an instance is made from a ROM image exactly when the image is a well-formed registry's, every other image is refused, and
the instance of this model's own parameters is `State.reset` (logs 1 and 4). -/
def Obligations.InstancesAreTheWellFormedRegistries : Prop :=
  (∀ (image : List RomSlot) (s : State), State.ofRom image = .ok s ↔
    ∃ reg, registryWf reg = true ∧ image = reg.map definitionToRomSlot ∧ s = { State.reset with registry := reg }) ∧
  (∀ image : List RomSlot, (∀ reg, registryWf reg = true → image ≠ reg.map definitionToRomSlot) →
    ∃ e, State.ofRom image = .error e) ∧
  State.ofRom (Config.registry.map definitionToRomSlot) = .ok State.reset ∧ Config.registry.length = Config.nproto

/-- 20_memory.md R35: the map from names to word addresses and the address decoder are inverse to each other, and what has no name is what
the map calls reserved. -/
def Obligations.WindowMapIsInverse : Prop :=
  (∀ r : Reg, locate (regAddr r) = some r) ∧ (∀ (a : BusAddr) (r : Reg), locate a = some r → regAddr r = a) ∧
  (∀ a : BusAddr, locate a = none ↔ ReservedWord a.toNat)

/-- 30_encoding.md R64 with 20_memory.md R39: an encoded script line is a transfer exactly when it is that transfer's encoding. -/
def Obligations.ScriptTripleRoundTrip : Prop :=
  ∀ (t : Triple) (e : HostEvent), tripleToEvent t = .ok e ↔ eventToTriple e = some t

/-- 30_encoding.md R60: bit 0 MATCH, bit 1 DUP, bit 2 CMDERR, and nothing above. -/
def Obligations.StatusWordLayout : Prop :=
  ∀ b : Block, b.statusWord.getLsbD 0 = b.matchFlag ∧ b.statusWord.getLsbD 1 = b.dupFlag ∧
    b.statusWord.getLsbD 2 = b.cmdErr ∧ b.statusWord.toNat ≤ 7

-- The step and the port

/-- 43_control.md R105 with 00_scope.md R7: a step whose event is a write of a command word to CMD runs that command, and takes the event from
the script. -/
def Obligations.StepRunsTheDecodedCommand : Prop :=
  ∀ (s : State) (w : Word) (rest : List HostEvent) (i : Instr),
    s.script = .write 0 w :: rest → decodeWord w = .ok i → i.wf = true →
      step s = exec i { s with script := rest }

/-- 30_encoding.md R54: every word but the five sets CMDERR and does nothing else. -/
def Obligations.IllegalCommandOnlyRaisesCmdErr : Prop :=
  ∀ (s : State) (w : Word) (rest : List HostEvent), s.script = .write 0 w :: rest →
    w ≠ 0x00000000 → w ≠ 0x00000001 → w ≠ 0x00000002 → w ≠ 0x00000003 → w ≠ 0x0000000F →
      step s = .next { s with script := rest, block := { s.block with cmdErr := true } }

/-- 20_memory.md R36: a read returns the word of the map, 0 for a reserved word, and changes no state of the block. The premise is 00_scope.md
R5's bound on NPROTO, which the invariant keeps. -/
def Obligations.ReadReturnsTheMappedWord : Prop :=
  (∀ (s : State) (r : Reg) (rest : List HostEvent), s.registry.length ≤ 128 → s.script = .read (regAddr r) :: rest →
    step s = .next { s with script := rest, returned := s.returned ++ [BitVec.ofNat 32 (mappedValue s r)] }) ∧
  (∀ (s : State) (a : BusAddr) (rest : List HostEvent), ReservedWord a.toNat → s.script = .read a :: rest →
    step s = .next { s with script := rest, returned := s.returned ++ [0] })

/-- 20_memory.md R42: a write to a read-only or reserved word changes nothing; a read of a reserved word, of a registry slot k >= NPROTO or of
CMD returns 0; no access faults. -/
def Obligations.ReadOnlyAndReservedWords : Prop :=
  (∀ (s : State) (a : BusAddr) (v : Word) (rest : List HostEvent), a ≠ 0 → ¬ StoringWord a.toNat →
    s.script = .write a v :: rest → step s = .next { s with script := rest }) ∧
  (∀ (s : State) (a : BusAddr) (rest : List HostEvent),
    ReservedWord a.toNat ∨ 512 + 4 * s.registry.length ≤ a.toNat ∨ a = 0 →
    s.script = .read a :: rest → step s = .next { s with script := rest, returned := s.returned ++ [0] }) ∧
  (∀ (s : State) (a : BusAddr) (v : Word) (rest : List HostEvent),
    s.script = .read a :: rest ∨ s.script = .write a v :: rest → ∃ t, step s = .next t)

/-- 20_memory.md R37, 30_encoding.md R55, R56, R62: what a write to each RW word stores, and nothing else. -/
def Obligations.WriteStoresTheNamedBits : Prop :=
  ∀ (s : State) (v : Word) (rest : List HostEvent),
    (s.script = .write (regAddr .pcount) v :: rest →
      step s = .next { s with script := rest, block := { s.block with pcount := BitVec.ofNat 8 (v.toNat % 2 ^ 8) } }) ∧
    (s.script = .write (regAddr .argBits) v :: rest →
      step s = .next { s with script := rest, block := { s.block with argBits := BitVec.ofNat 7 (v.toNat % 2 ^ 7) } }) ∧
    (s.script = .write (regAddr .timeLo) v :: rest →
      step s = .next { s with script := rest, block := { s.block with
        time := BitVec.ofNat 64 (s.block.time.toNat / 2 ^ 32 * 2 ^ 32 + v.toNat) } }) ∧
    (s.script = .write (regAddr .timeHi) v :: rest →
      step s = .next { s with script := rest, block := { s.block with
        time := BitVec.ofNat 64 (v.toNat * 2 ^ 32 + s.block.time.toNat % 2 ^ 32) } }) ∧
    (s.script = .write (regAddr .argValLo) v :: rest →
      step s = .next { s with script := rest, block := { s.block with
        argVal := BitVec.ofNat 64 (s.block.argVal.toNat / 2 ^ 32 * 2 ^ 32 + v.toNat) } }) ∧
    (s.script = .write (regAddr .argValHi) v :: rest →
      step s = .next { s with script := rest, block := { s.block with
        argVal := BitVec.ofNat 64 (v.toNat * 2 ^ 32 + s.block.argVal.toNat % 2 ^ 32) } }) ∧
    (∀ w : Fin 64, s.script = .write (regAddr (.pulse w)) v :: rest →
      step s = .next { s with script := rest, block := { s.block with
        pulses := ((s.block.pulses.set (2 * w.val) ⟨BitVec.ofNat 15 (v.toNat % 2 ^ 15), v.getLsbD 15⟩).set
          (2 * w.val + 1) ⟨BitVec.ofNat 15 (v.toNat / 2 ^ 16 % 2 ^ 15), v.getLsbD 31⟩) } })

/-- 20_memory.md R37, R41: a write to a word other than CMD leaves every byte of every other word, the flags, the results, the log and the
registry. -/
def Obligations.WriteLeavesOtherBytes : Prop :=
  ∀ (s : State) (a : BusAddr) (v : Word) (rest : List HostEvent), a ≠ 0 → s.script = .write a v :: rest →
    ∃ t, step s = .next t ∧ t.script = rest ∧ t.returned = s.returned ∧ t.registry = s.registry ∧
      t.block.matchFlag = s.block.matchFlag ∧ t.block.dupFlag = s.block.dupFlag ∧ t.block.cmdErr = s.block.cmdErr ∧
      t.block.resId = s.block.resId ∧ t.block.resBits = s.block.resBits ∧ t.block.resVal = s.block.resVal ∧
      t.block.log = s.block.log ∧
      ∀ o : Nat, o / 4 ≠ a.toNat → readByte t.registry t.block o = readByte s.registry s.block o

/-- 20_memory.md R35 with 30_encoding.md R57: the three words of entry k, read through the window, are the entry. -/
def Obligations.RegistryReadsBackThroughTheWindow : Prop :=
  ∀ (s : State) (k : Fin 128) (d : Definition), s.registry[k.val]? = some d →
    ∃ (t : State) (w0 w1 w2 : Word), Host.Core.run core 3 ({ s with script := [readLine (.regW0 k), readLine (.regW1 k), readLine (.regW2 k)] } : State)
        = .next t ∧ t.returned = s.returned ++ [w0, w1, w2] ∧ t.block = s.block ∧ wordsToDefinition w0 w1 w2 = d

/-- 30_encoding.md R65 (`WR64`) with 20_memory.md R40: the two half writes store the whole quantity, and between them the register holds one
new and one old half. -/
def Obligations.WritePairIsTwoHalves : Prop :=
  ∀ (s : State) (v : Wide),
    Host.Core.run core 2 ({ s with script := writePair .time v } : State)
      = .next ({ s with script := [], block := { s.block with time := v } } : State) ∧
    Host.Core.run core 2 ({ s with script := writePair .argVal v } : State)
      = .next ({ s with script := [], block := { s.block with argVal := v } } : State) ∧
    (∃ t, step { s with script := writePair .time v } = .next t ∧
      t.block.time.toNat = s.block.time.toNat / 2 ^ 32 * 2 ^ 32 + v.toNat % 2 ^ 32)

/-- 30_encoding.md R65 (`LOADP`) with R56: the transfers load the train from slot 0 on, write 0x0000 into the slot a train of odd length leaves
open, leave every later slot, and set PCOUNT. -/
def Obligations.LoadpLoadsTheTrain : Prop :=
  ∀ (s : State) (train : List Pulse), train.length ≤ 128 →
    ∃ (es : List HostEvent) (t : State), expandLine (.loadp train) = .ok es ∧ Host.Core.run core es.length ({ s with script := es } : State) = .next t ∧
      t.block.HoldsTrain train ∧
      (∀ i (h : i < 128), 2 * ((train.length + 1) / 2) ≤ i → t.block.pulses[i] = s.block.pulses[i]) ∧
      (∀ h : train.length < 128, train.length % 2 = 1 → t.block.pulses[train.length] = ⟨0, false⟩) ∧
      t = { s with script := [], block := { s.block with pcount := t.block.pcount, pulses := t.block.pulses } }

/-- 70_reset_and_hazards.md R138 with 60_exceptions.md R109: a script runs to its end whatever it holds, one step for each event, with one value
returned for each read; then nothing moves. -/
def Obligations.ScriptsRunToTheirEnd : Prop :=
  ∀ s : State, ∃ t : State, Host.Core.run core s.script.length s = .next t ∧ t.script = [] ∧ t.registry = s.registry ∧
    t.returned.length = s.returned.length
      + (s.script.filter fun e => match e with | .read _ => true | .write _ _ => false | .hardReset => false).length ∧
    step t = .next t

-- Reset

/-- 70_reset_and_hazards.md R126: after reset every register, flag, pulse slot and log field is 0, and the registry is the instance's. That the
instance's registry is `Config.registry` is the model's parameter (log 1). -/
def Obligations.ResetStateIsAllZero : Prop :=
  State.reset.block.pcount = 0 ∧ State.reset.block.time = 0 ∧ State.reset.block.argBits = 0 ∧ State.reset.block.argVal = 0 ∧
  State.reset.block.resId = 0 ∧ State.reset.block.resBits = 0 ∧ State.reset.block.resVal = 0 ∧
  State.reset.block.matchFlag = false ∧ State.reset.block.dupFlag = false ∧ State.reset.block.cmdErr = false ∧
  (∀ i (h : i < 128), State.reset.block.pulses[i] = ⟨0, false⟩) ∧ (∀ i : Fin 20, State.reset.block.log[i] = ⟨0, 0, 0⟩) ∧
  State.reset.registry = Config.registry

/-- 43_control.md R104: RESET, the word 0x0000000F, gives every piece of state its reset value and leaves the registry, it is the same as
a hardware reset, and it is the only command that clears CMDERR. -/
def Obligations.ResetCommandClearsTheBlock : Prop :=
  decodeWord 0x0000000F = .ok .reset ∧ ∀ s : State,
    exec .reset s = .next { s with block := {
      pcount := 0, time := 0, argBits := 0, argVal := 0, resId := 0, resBits := 0, resVal := 0,
      matchFlag := false, dupFlag := false, cmdErr := false,
      pulses := Vector.replicate 128 ⟨0, false⟩, log := Vector.replicate 20 ⟨0, 0, 0⟩ } } ∧
    step { s with script := .hardReset :: s.script } = exec .reset s ∧
    ∀ i : Instr, i ≠ .reset → ∃ t, exec i s = .next t ∧ t.block.cmdErr = s.block.cmdErr

-- Commands: NOP, DECODE

/-- 43_control.md R102: a word of zeros is NOP, and NOP leaves the state as it is, CMDERR included. -/
def Obligations.NopChangesNothing : Prop := decodeWord 0x00000000 = .ok .nop ∧ ∀ s : State, exec .nop s = .next s

/-- 41_decoder.md R90: PCOUNT below 16 or above 128, or every definition failing or skipped, gives the empty result; nothing else changes. -/
def Obligations.DecodeWithoutMatchGivesTheEmptyResult : Prop :=
  ∀ s : State,
    (s.block.pcount.toNat < 16 ∨ 128 < s.block.pcount.toNat ∨
      ∀ d ∈ s.registry, d.family ≠ 0 ∨ tryDefinition d s.block.train = none) →
    exec .decode s = .next { s with block := s.block.emptyResult }

/-- 41_decoder.md R87: the first definition in registry order that matches gives the result, and its `id` field the identity. -/
def Obligations.DecodeFirstMatchWins : Prop :=
  ∀ (s : State) (before after : List Definition) (d : Definition) (a : Accumulator),
    16 ≤ s.block.pcount.toNat → s.block.pcount.toNat ≤ 128 → s.registry = before ++ d :: after →
    (∀ e ∈ before, e.family ≠ 0 ∨ tryDefinition e s.block.train = none) →
    d.family = 0 → tryDefinition d s.block.train = some a →
    exec .decode s = .next { s with block := { s.block with
      matchFlag := true, resId := d.id, resBits := BitVec.ofNat 7 a.bits, resVal := a.acc } }

/-- 41_decoder.md R77, R82, R85, R86, R89: TRY succeeds exactly when every pair from the first cursor on, two pulses apart, is a symbol; the bit
count is ceil((L - c0) / 2) and the value is the symbols, most significant first. -/
def Obligations.TryIsTheSymbolWalk : Prop :=
  ∀ (d : Definition) (t : Train) (a : Accumulator), 16 ≤ t.n → t.n ≤ 128 →
    (tryDefinition d t = some a ↔
      ∃ bits : List Bool, bits.length = (lastUsable d t - firstCursor d t + 1) / 2 ∧
        (∀ j (h : j < bits.length), symbolAt d t (lastUsable d t) (firstCursor d t + 2 * j) = some bits[j]) ∧
        a.bits = bits.length ∧ a.acc.toNat = msbValue bits)

/-- 41_decoder.md R82: zero is tried first; a pair that matches both symbols is a zero. -/
def Obligations.ZeroIsTriedBeforeOne : Prop :=
  ∀ (d : Definition) (t : Train) (l c : Nat),
    (symbolAt d t l c = some false ↔ pairMatches d t c d.zero (decide (c ≤ 2)) (decide (c + 1 = l)) = true) ∧
    (symbolAt d t l c = some true ↔ pairMatches d t c d.zero (decide (c ≤ 2)) (decide (c + 1 = l)) = false ∧
      pairMatches d t c d.one (decide (c ≤ 2)) (decide (c + 1 = l)) = true)

/-- 41_decoder.md R79, R80: the last usable index and the cursor after alignment, with the bounds of R79 and R81. -/
def Obligations.CursorStartAndEnd : Prop :=
  ∀ (d : Definition) (t : Train), 16 ≤ t.n → t.n ≤ 128 →
    (d.addLastPulse = false → (t.pulse (t.n - 1)).dur = 0 → lastUsable d t = t.n - 2) ∧
    (d.addLastPulse = true ∨ (t.pulse (t.n - 1)).dur ≠ 0 → lastUsable d t = t.n - 1) ∧
    14 ≤ lastUsable d t ∧ lastUsable d t ≤ 127 ∧
    ((t.pulse 0).lvl = !d.inverted → alignCursor (activeLevel d) t = 0) ∧
    ((t.pulse 0).lvl = d.inverted → alignCursor (activeLevel d) t = 1) ∧ firstCursor d t ≤ 3

/-- 95_test_vectors.md E1: a train whose pair timings are exactly ratio times base unit decodes to the pattern it was made from. The premises are
E1's conditions as the rules give them (durations that can be measured, a tolerance above 0, an exact one not accepted as a zero, an exact first
symbol not accepted as the sync when there is none, the definition first in the registry). -/
def Obligations.ExactTrainDecodes : Prop :=
  ∀ (s : State) (d : Definition) (others : List Definition) (withSync : Bool) (bits : List Bool),
    s.registry = d :: others → d.family = 0 → 0 < d.tol.toNat → DurationsMeasurable d →
    (∀ widen, acceptsExact d d.one d.zero widen = false) →
    (withSync = false → ∀ b, bits.head? = some b → acceptsExact d (symbolRatio d b) d.sync true = false) →
    16 ≤ (exactTrain d withSync bits).length → (exactTrain d withSync bits).length ≤ 128 →
    s.block.HoldsTrain (exactTrain d withSync bits) →
    exec .decode s = .next { s with block := { s.block with
      matchFlag := true, resId := d.id, resBits := BitVec.ofNat 7 bits.length, resVal := BitVec.ofNat 64 (msbValue bits) } }

/-- 41_decoder.md R88 with 20_memory.md R49: DECODE depends on PCOUNT, the durations below PCOUNT, the level of P(0) and the registry only. -/
def Obligations.DecodeReadsOnlyTheDeclaredPulses : Prop :=
  ∀ (s s' : State), s.registry = s'.registry → s.block.pcount = s'.block.pcount →
    (∀ i (h : i < 128), i < s.block.pcount.toNat → s.block.pulses[i].dur = s'.block.pulses[i].dur) →
    s.block.pulses[0].lvl = s'.block.pulses[0].lvl →
    ∃ t t', exec .decode s = .next t ∧ exec .decode s' = .next t' ∧ t.block.matchFlag = t'.block.matchFlag ∧
      t.block.resId = t'.block.resId ∧ t.block.resBits = t'.block.resBits ∧ t.block.resVal = t'.block.resVal

/-- 41_decoder.md R76: taking the entries of a reserved family out of the registry changes no result. -/
def Obligations.NonPwmEntriesAreSkipped : Prop :=
  ∀ s : State, ∃ t, exec .decode s = .next t ∧
    exec .decode { s with registry := s.registry.filter fun d => d.family == 0 }
      = .next { t with registry := s.registry.filter fun d => d.family == 0 }

/-- 10_state.md R29 with 41_decoder.md R87: definitions appended to the registry change no decode that matches. -/
def Obligations.AppendedDefinitionsKeepMatches : Prop :=
  ∀ (s : State) (more : List Definition), ∃ t, exec .decode s = .next t ∧
    (t.block.matchFlag = true →
      exec .decode { s with registry := s.registry ++ more } = .next { t with registry := s.registry ++ more })

/-- 41_decoder.md R89 with 10_state.md R17: after a match of DECODE or EVENT the bit count is 6 to 64 and the value has no bit above it. -/
def Obligations.DecodeResultBounds : Prop :=
  ∀ s : State, ∃ t u, exec .decode s = .next t ∧ exec .event s = .next u ∧
    (t.block.matchFlag = true → 6 ≤ t.block.resBits.toNat ∧ t.block.resBits.toNat ≤ 64 ∧
      t.block.resVal.toNat < 2 ^ t.block.resBits.toNat) ∧
    (u.block.matchFlag = true → 6 ≤ u.block.resBits.toNat ∧ u.block.resBits.toNat ≤ 64 ∧
      u.block.resVal.toNat < 2 ^ u.block.resBits.toNat)

-- The matcher

/-- 40_matcher.md R69: doubled when widened, not clamped. -/
def Obligations.EffectiveToleranceDoubles : Prop :=
  ∀ tol : BitVec 8, effectiveTolerance tol true = tol.toNat * 2 ∧ effectiveTolerance tol false = tol.toNat

/-- 40_matcher.md R68: the comparison is the source's fraction, evaluated exactly, and strict. -/
def Obligations.ToleranceIsTheExactFraction : Prop :=
  ∀ (m : BitVec 15) (e : Nat) (tol : BitVec 8) (widen : Bool),
    inTolerance m e tol widen = true ↔
      |(m.toNat : ℚ) - (e : ℚ)| < (e : ℚ) * (if widen then 2 * (tol.toNat : ℚ) else (tol.toNat : ℚ)) / 100

/-- 40_matcher.md R73 (c), (a), (b): the accepted interval is open and symmetric; nothing is in tolerance of 0, or with tolerance 0. -/
def Obligations.AcceptedIntervalIsOpen : Prop :=
  (∀ (m : BitVec 15) (e : Nat) (tol : BitVec 8) (widen : Bool),
    inTolerance m e tol widen = true ↔
      (e : Int) * (100 - (effectiveTolerance tol widen : Int)) < 100 * (m.toNat : Int) ∧
      100 * (m.toNat : Int) < (e : Int) * (100 + (effectiveTolerance tol widen : Int))) ∧
  (∀ (m : BitVec 15) (tol : BitVec 8) (widen : Bool), inTolerance m 0 tol widen = false) ∧
  (∀ (m : BitVec 15) (e : Nat) (widen : Bool), inTolerance m e 0 widen = false)

/-- 40_matcher.md R73 (e): the accepted durations of the source's protocol 1, tolerance 25, base unit 350. -/
def Obligations.AcceptedDurationsOfProtocolOne : Prop :=
  ∀ m : BitVec 15,
    (inTolerance m (expectedDuration 1 350) 25 false = true ↔ 263 ≤ m.toNat ∧ m.toNat ≤ 437) ∧
    (inTolerance m (expectedDuration 1 350) 25 true = true ↔ 176 ≤ m.toNat ∧ m.toNat ≤ 524) ∧
    (inTolerance m (expectedDuration 3 350) 25 false = true ↔ 788 ≤ m.toNat ∧ m.toNat ≤ 1312) ∧
    (inTolerance m (expectedDuration 3 350) 25 true = true ↔ 526 ≤ m.toNat ∧ m.toNat ≤ 1574) ∧
    (inTolerance m (expectedDuration 31 350) 25 false = true ↔ 8138 ≤ m.toNat ∧ m.toNat ≤ 13562) ∧
    (inTolerance m (expectedDuration 31 350) 25 true = true ↔ 5426 ≤ m.toNat ∧ m.toNat ≤ 16274)

/-- 40_matcher.md R72: the bounds of every intermediate value of the matcher. -/
def Obligations.MatcherArithmeticFits : Prop :=
  ∀ (m : BitVec 15) (r tol : BitVec 8) (u : BitVec 16) (widen : Bool),
    expectedDuration r u < 2 ^ 24 ∧ absDiff m.toNat (expectedDuration r u) < 2 ^ 24 ∧
    absDiff m.toNat (expectedDuration r u) * 100 < 2 ^ 31 ∧ effectiveTolerance tol widen ≤ 510 ∧
    (tol.toNat ≤ 100 → effectiveTolerance tol widen ≤ 200) ∧
    expectedDuration r u * effectiveTolerance tol widen < 2 ^ 33 ∧
    (expectedDuration r u ≤ m.toNat → absDiff m.toNat (expectedDuration r u) = m.toNat - expectedDuration r u) ∧
    (m.toNat < expectedDuration r u → absDiff m.toNat (expectedDuration r u) = expectedDuration r u - m.toNat)

/-- The pseudocode of 40_matcher.md R70: the high must be in tolerance; then a missing low is accepted where it may be, and any other low must
be in tolerance. For a low of 0 that may not be missing and an effective tolerance above 100 this is the model's reading (R68, R73 (c)) against
R70's remark that such a low fails (log 8). -/
def Obligations.PairMatchRule : Prop :=
  ∀ (mh ml : BitVec 15) (u : BitVec 16) (r : Ratio) (tol : BitVec 8) (widen aml : Bool),
    matchPair mh ml u r tol widen aml = true ↔
      inTolerance mh (r.high.toNat * u.toNat) tol widen = true ∧
      ((aml = true ∧ ml = 0) ∨ inTolerance ml (r.low.toNat * u.toNat) tol widen = true)

-- CHKDUP

/-- 42_dupfilter.md R95 with R93, R94: the first entry that holds the value is refreshed, and the age before the refresh decides, strictly. -/
def Obligations.KnownValueIsClassifiedByItsAge : Prop :=
  ∀ (s : State) (i : Fin 20), s.block.log[i].val = s.block.argVal →
    (∀ j : Fin 20, j < i → s.block.log[j].val ≠ s.block.argVal) →
    exec .chkdup s = .next { s with block := { s.block with
      log := s.block.log.set i ⟨msOf s.block.time, s.block.argBits, s.block.argVal⟩,
      dupFlag := if 1000 < ((s.block.time.toNat / 1000 : Nat) : Int) - (s.block.log[i].last.toNat : Int) then false else true } }

/-- 42_dupfilter.md R96, R98: a value that no entry holds claims the first stale entry, and the answer is fresh. -/
def Obligations.NewValueClaimsTheFirstStaleEntry : Prop :=
  ∀ (s : State) (i : Fin 20), (∀ j : Fin 20, s.block.log[j].val ≠ s.block.argVal) →
    1000 < ((s.block.time.toNat / 1000 : Nat) : Int) - (s.block.log[i].last.toNat : Int) →
    (∀ j : Fin 20, j < i → ((s.block.time.toNat / 1000 : Nat) : Int) - (s.block.log[j].last.toNat : Int) ≤ 1000) →
    exec .chkdup s = .next { s with block := { s.block with
      log := s.block.log.set i ⟨msOf s.block.time, s.block.argBits, s.block.argVal⟩, dupFlag := false } }

/-- 42_dupfilter.md R97: with no value match and no stale entry nothing is recorded, and the answer is fresh; the same value, submitted again
while the log is still saturated, is again not found. -/
def Obligations.SaturatedLogRecordsNothing : Prop :=
  ∀ (s : State) (time : Wide), (∀ j : Fin 20, s.block.log[j].val ≠ s.block.argVal) →
    (∀ j : Fin 20, ((s.block.time.toNat / 1000 : Nat) : Int) - (s.block.log[j].last.toNat : Int) ≤ 1000) →
    (∀ j : Fin 20, ((time.toNat / 1000 : Nat) : Int) - (s.block.log[j].last.toNat : Int) ≤ 1000) →
    ∃ t, exec .chkdup s = .next t ∧ t = { s with block := { s.block with dupFlag := false } } ∧
      exec .chkdup { t with block := { t.block with time := time } }
        = .next { t with block := { t.block with time := time } }

/-- 42_dupfilter.md R92: whole milliseconds, truncated, below 2^55. -/
def Obligations.MillisecondsAreTruncated : Prop :=
  ∀ time : Wide, (nowMs time).toNat = time.toNat / 1000 ∧ (nowMs time).toNat < 2 ^ 55 ∧ nowMs 1999 = 1

/-- 42_dupfilter.md R94, R95, R101: a value recorded by one CHKDUP is classified by the next CHKDUP of it by the second time minus the first,
a signed difference, whatever the first answered: a second time that is earlier, by however much, is a duplicate (R101, not the refusal it permits,
log 5). -/
def Obligations.DuplicateWindowSlides : Prop :=
  ∀ (s : State) (time : Wide) (bits : BitVec 7), ∃ t, exec .chkdup s = .next t ∧
    ((∃ j : Fin 20, t.block.log[j].val = s.block.argVal) →
      ∃ u, exec .chkdup { t with block := { t.block with time := time, argBits := bits } } = .next u ∧
        u.block.dupFlag = decide (((time.toNat / 1000 : Nat) : Int) - ((s.block.time.toNat / 1000 : Nat) : Int) ≤ 1000))

/-- 70_reset_and_hazards.md R132: with every stored time 0, a TIME below 1 001 000 records no value that the log does not hold. -/
def Obligations.FirstSecondRecordsNothing : Prop :=
  ∀ s : State, (∀ j : Fin 20, s.block.log[j].last = 0) → s.block.time.toNat < 1001000 →
    (∀ j : Fin 20, s.block.log[j].val ≠ s.block.argVal) →
    exec .chkdup s = .next { s with block := { s.block with dupFlag := false } }

/-- 70_reset_and_hazards.md R133: with the reset log, value 0 is found at LOG[0]: a duplicate while nowMs is at most 1000, fresh after. -/
def Obligations.ValueZeroMatchesTheResetLog : Prop :=
  ∀ s : State, (∀ j : Fin 20, s.block.log[j] = ⟨0, 0, 0⟩) → s.block.argVal = 0 →
    exec .chkdup s = .next { s with block := { s.block with
      log := s.block.log.set 0 ⟨msOf s.block.time, s.block.argBits, 0⟩,
      dupFlag := decide (s.block.time.toNat / 1000 ≤ 1000) } }

/-- 42_dupfilter.md R99: bit counts take no part: the answer and the times and values of the log after CHKDUP do not depend on them. -/
def Obligations.FilterIgnoresBitCounts : Prop :=
  ∀ s s' : State, s.block.time = s'.block.time → s.block.argVal = s'.block.argVal →
    (∀ j : Fin 20, s.block.log[j].last = s'.block.log[j].last ∧ s.block.log[j].val = s'.block.log[j].val) →
    ∃ t t', exec .chkdup s = .next t ∧ exec .chkdup s' = .next t' ∧ t.block.dupFlag = t'.block.dupFlag ∧
      ∀ j : Fin 20, t.block.log[j].last = t'.block.log[j].last ∧ t.block.log[j].val = t'.block.log[j].val

/-- 42_dupfilter.md R101 (not the refusal it permits, log 5): when TIME runs backwards the age is negative, so a matching entry is a duplicate and its time is set back, and no
entry that is ahead of now is claimed. -/
def Obligations.BackwardTimeIsNeverStale : Prop :=
  (∀ (s : State) (i : Fin 20), s.block.log[i].val = s.block.argVal →
    (∀ j : Fin 20, j < i → s.block.log[j].val ≠ s.block.argVal) → s.block.time.toNat / 1000 < s.block.log[i].last.toNat →
    ∃ t, exec .chkdup s = .next t ∧ t.block.dupFlag = true ∧ t.block.log[i].last.toNat = s.block.time.toNat / 1000) ∧
  (∀ (s : State) (i : Fin 20), s.block.log[i].val ≠ s.block.argVal → s.block.time.toNat / 1000 < s.block.log[i].last.toNat →
    ∃ t, exec .chkdup s = .next t ∧ t.block.log[i] = s.block.log[i])

-- EVENT

/-- 43_control.md R103 with 41_decoder.md R90: an EVENT that decodes nothing gives the empty result and DUP = 0, and touches nothing else. -/
def Obligations.EventWithoutMatchLeavesTheFilter : Prop :=
  ∀ s : State,
    (s.block.pcount.toNat < 16 ∨ 128 < s.block.pcount.toNat ∨
      ∀ d ∈ s.registry, d.family ≠ 0 ∨ tryDefinition d s.block.train = none) →
    exec .event s = .next { s with block := { s.block.emptyResult with dupFlag := false } }

/-- 43_control.md R103: an EVENT that decodes puts the result into RES and ARG and then does what CHKDUP does. -/
def Obligations.EventOnMatchFiltersTheResult : Prop :=
  ∀ (s : State) (before after : List Definition) (d : Definition) (a : Accumulator),
    16 ≤ s.block.pcount.toNat → s.block.pcount.toNat ≤ 128 → s.registry = before ++ d :: after →
    (∀ e ∈ before, e.family ≠ 0 ∨ tryDefinition e s.block.train = none) →
    d.family = 0 → tryDefinition d s.block.train = some a →
    ∃ u, exec .event s = .next u ∧
      exec .chkdup { s with block := { s.block with
        matchFlag := true, resId := d.id, resBits := BitVec.ofNat 7 a.bits, resVal := a.acc,
        argBits := BitVec.ofNat 7 a.bits, argVal := a.acc } } = .next u

/-- 43_control.md R103 (c): on a match EVENT is `CMD DECODE`, `WR ARG_BITS`, `WR64 ARG_VAL` with the results, and `CMD CHKDUP`. -/
def Obligations.EventIsDecodeThenChkdup : Prop :=
  ∀ s : State, ∃ t u, exec .decode s = .next t ∧ exec .event s = .next u ∧
    (t.block.matchFlag = true →
      Host.Core.run core 5 ({ s with script := [writeLine .cmd 0x00000001,
          writeLine .argBits (t.block.resBits.setWidth 32), writeLine .argValLo (loHalf t.block.resVal),
          writeLine .argValHi (hiHalf t.block.resVal), writeLine .cmd 0x00000002] } : State)
        = .next ({ u with script := [] } : State))

-- The whole machine

/-- 43_control.md R107: a command changes no state outside its row of the frame table. The log entry CHKDUP writes is the one the scans of R91
find. -/
def Obligations.CommandsChangeOnlyTheirRow : Prop :=
  ∀ (i : Instr) (s : State), ∃ t, exec i s = .next t ∧
    t.registry = s.registry ∧ t.script = s.script ∧ t.returned = s.returned ∧
    (i = .nop → t.block = s.block) ∧
    (i = .decode →
      { t.block with
        matchFlag := s.block.matchFlag, resId := s.block.resId, resBits := s.block.resBits,
        resVal := s.block.resVal } = s.block) ∧
    (i = .chkdup →
      { t.block with
        dupFlag := s.block.dupFlag, log := s.block.log } = s.block ∧
      ∀ j : Fin 20, s.block.chkdupTarget ≠ some j → t.block.log[j] = s.block.log[j]) ∧
    (i = .event →
      { t.block with
        matchFlag := s.block.matchFlag, resId := s.block.resId, resBits := s.block.resBits,
        resVal := s.block.resVal, dupFlag := s.block.dupFlag, argBits := s.block.argBits, argVal := s.block.argVal,
        log := s.block.log } = s.block ∧
      (t.block.matchFlag = true → t.block.argBits = t.block.resBits ∧ t.block.argVal = t.block.resVal ∧
        ∀ j : Fin 20, ({ s.block with argVal := t.block.resVal } : Block).chkdupTarget ≠ some j →
          t.block.log[j] = s.block.log[j]) ∧
      (t.block.matchFlag = false → t.block.argBits = s.block.argBits ∧ t.block.argVal = s.block.argVal ∧
        t.block.log = s.block.log)) ∧
    (i = .reset → t.block = Block.reset)

/-- 10_state.md R21: CMDERR is set by an illegal command word, cleared by RESET and hardware reset, kept by everything else; and no command's
effect on the rest depends on it. -/
def Obligations.CmdErrIsSticky : Prop :=
  (∀ s : State, ∃ t, step s = .next t ∧
    ((∃ w rest, s.script = .write 0 w :: rest ∧ w ∉ [0x00000000, 0x00000001, 0x00000002, 0x00000003, 0x0000000F]) →
      t.block.cmdErr = true) ∧
    ((∃ rest, s.script = .hardReset :: rest ∨ s.script = .write 0 0x0000000F :: rest) → t.block.cmdErr = false) ∧
    ((¬ ∃ w rest, s.script = .write 0 w :: rest ∧ w ∉ [0x00000000, 0x00000001, 0x00000002, 0x00000003, 0x0000000F]) →
      (¬ ∃ rest, s.script = .hardReset :: rest ∨ s.script = .write 0 0x0000000F :: rest) →
      t.block.cmdErr = s.block.cmdErr)) ∧
  (∀ (i : Instr) (s : State) (v : Bool), ∃ t, exec i s = .next t ∧
    exec i { s with block := { s.block with cmdErr := v } }
      = .next { t with block := { t.block with cmdErr := if i = .reset then false else v } })

/-- 10_state.md R11, R12, R19, R20, R24, R26, R29: which events may change which state. -/
def Obligations.StateChangesOnlyByTheListedEvents : Prop :=
  ∀ s : State, ∃ t, step s = .next t ∧ t.registry = s.registry ∧
    ((∀ rest, s.script ≠ .hardReset :: rest ∧ s.script ≠ .write 0 0x0000000F :: rest) →
      (t.block.pcount ≠ s.block.pcount → ∃ v rest, s.script = .write (regAddr .pcount) v :: rest) ∧
      (t.block.time ≠ s.block.time →
        ∃ v rest, s.script = .write (regAddr .timeLo) v :: rest ∨ s.script = .write (regAddr .timeHi) v :: rest) ∧
      (t.block.pulses ≠ s.block.pulses → ∃ w v rest, s.script = .write (regAddr (.pulse w)) v :: rest) ∧
      (t.block.matchFlag ≠ s.block.matchFlag ∨ t.block.resId ≠ s.block.resId ∨ t.block.resBits ≠ s.block.resBits ∨
          t.block.resVal ≠ s.block.resVal →
        ∃ rest, s.script = .write 0 0x00000001 :: rest ∨ s.script = .write 0 0x00000003 :: rest) ∧
      (t.block.dupFlag ≠ s.block.dupFlag ∨ t.block.log ≠ s.block.log →
        ∃ rest, s.script = .write 0 0x00000002 :: rest ∨ s.script = .write 0 0x00000003 :: rest))

/-- 10_state.md R27 (b), R16, R17, 30_encoding.md R66, 41_decoder.md R89, 42_dupfilter.md R101: every step keeps the invariant. -/
def Obligations.StepKeepsTheInvariant : Prop := ∀ s : State, s.Inv → ∃ t, step s = .next t ∧ t.Inv

/-- 10_state.md R32 with 00_scope.md R6: the reset state meets the invariant, whatever the instance's parameters are (logs 1 and 4). -/
def Obligations.ResetMeetsTheInvariant : Prop := State.reset.Inv

/-- 10_state.md R32 with 00_scope.md R6: the reset state of every instance that can be made from a ROM image meets the invariant. -/
def Obligations.EveryInstanceStartsInTheInvariant : Prop :=
  ∀ (image : List RomSlot) (s : State), State.ofRom image = .ok s → s.Inv
end

