-- ==== Sys2Proof/Laws/Config.lean ====
section
/-! SUPPORT. What the parameters of an instance always are, and what making an instance from a ROM image can do. -/

namespace Sys2Proof

theorem RegistryEntry.definition_family (e : RegistryEntry) : e.definition.family = Config.familyPwm := rfl

theorem RegistryEntry.definition_tol (e : RegistryEntry) : e.definition.tol.toNat = e.tol := by
  have h : e.tol.val < 101 := e.tol.isLt
  simp only [RegistryEntry.definition, BitVec.toNat_ofNat]
  omega

theorem RegistryEntry.definition_wf (e : RegistryEntry) : e.definition.wf = true := by
  have h : e.tol.val < 101 := e.tol.isLt
  simp only [Definition.wf, e.definition_family, e.definition_tol, beq_self_eq_true, Bool.true_and, decide_eq_true_eq]
  omega

/-- NPROTO is the length of REGISTRY. -/
@[simp] theorem Config.registry_length : Config.registry.length = Config.nproto := by simp [Config.registry]

/-- Every value of the parameters is a well-formed registry. -/
theorem Config.registry_wf : registryWf Config.registry = true := by
  have h := Config.nproto.isLt
  simp only [registryWf, Config.registry_length, Bool.and_eq_true, decide_eq_true_eq, List.all_eq_true]
  refine ⟨by omega, fun d hd => ?_⟩
  obtain ⟨e, -, rfl⟩ := List.mem_map.mp hd
  exact e.definition_wf

/-- Making an instance answers the reset state with the registry read, or the reader's reason. -/
theorem Machine.State.ofRom_eq_ok_iff (image : List RomSlot) (s : Machine.State) :
    Machine.State.ofRom image = .ok s ↔
      ∃ reg, romImageToRegistry image = .ok reg ∧ s = { Machine.State.reset with registry := reg } := by
  unfold Machine.State.ofRom
  cases romImageToRegistry image <;> simp [Except.map, eq_comm]

end Sys2Proof
end

