-- ==== Sys2Proof/Laws/State.lean ====
section
/-! SUPPORT. One lemma per field per update of the state, each true by `rfl`: later proofs need not unfold a record update. -/

namespace Sys2Proof.Machine

-- STATUS.DUP <- v

@[simp] theorem Block_setDup_pcount (b : Block) (v : Bool) : (b.setDup v).pcount = b.pcount := rfl
@[simp] theorem Block_setDup_time (b : Block) (v : Bool) : (b.setDup v).time = b.time := rfl
@[simp] theorem Block_setDup_argBits (b : Block) (v : Bool) : (b.setDup v).argBits = b.argBits := rfl
@[simp] theorem Block_setDup_argVal (b : Block) (v : Bool) : (b.setDup v).argVal = b.argVal := rfl
@[simp] theorem Block_setDup_resId (b : Block) (v : Bool) : (b.setDup v).resId = b.resId := rfl
@[simp] theorem Block_setDup_resBits (b : Block) (v : Bool) : (b.setDup v).resBits = b.resBits := rfl
@[simp] theorem Block_setDup_resVal (b : Block) (v : Bool) : (b.setDup v).resVal = b.resVal := rfl
@[simp] theorem Block_setDup_matchFlag (b : Block) (v : Bool) : (b.setDup v).matchFlag = b.matchFlag := rfl
@[simp] theorem Block_setDup_dupFlag (b : Block) (v : Bool) : (b.setDup v).dupFlag = v := rfl
@[simp] theorem Block_setDup_cmdErr (b : Block) (v : Bool) : (b.setDup v).cmdErr = b.cmdErr := rfl
@[simp] theorem Block_setDup_pulses (b : Block) (v : Bool) : (b.setDup v).pulses = b.pulses := rfl
@[simp] theorem Block_setDup_log (b : Block) (v : Bool) : (b.setDup v).log = b.log := rfl

-- STATUS.CMDERR <- 1

@[simp] theorem Block_raiseCmdErr_pcount (b : Block) : (b.raiseCmdErr).pcount = b.pcount := rfl
@[simp] theorem Block_raiseCmdErr_time (b : Block) : (b.raiseCmdErr).time = b.time := rfl
@[simp] theorem Block_raiseCmdErr_argBits (b : Block) : (b.raiseCmdErr).argBits = b.argBits := rfl
@[simp] theorem Block_raiseCmdErr_argVal (b : Block) : (b.raiseCmdErr).argVal = b.argVal := rfl
@[simp] theorem Block_raiseCmdErr_resId (b : Block) : (b.raiseCmdErr).resId = b.resId := rfl
@[simp] theorem Block_raiseCmdErr_resBits (b : Block) : (b.raiseCmdErr).resBits = b.resBits := rfl
@[simp] theorem Block_raiseCmdErr_resVal (b : Block) : (b.raiseCmdErr).resVal = b.resVal := rfl
@[simp] theorem Block_raiseCmdErr_matchFlag (b : Block) : (b.raiseCmdErr).matchFlag = b.matchFlag := rfl
@[simp] theorem Block_raiseCmdErr_dupFlag (b : Block) : (b.raiseCmdErr).dupFlag = b.dupFlag := rfl
@[simp] theorem Block_raiseCmdErr_cmdErr (b : Block) : (b.raiseCmdErr).cmdErr = true := rfl
@[simp] theorem Block_raiseCmdErr_pulses (b : Block) : (b.raiseCmdErr).pulses = b.pulses := rfl
@[simp] theorem Block_raiseCmdErr_log (b : Block) : (b.raiseCmdErr).log = b.log := rfl

-- the empty result

@[simp] theorem Block_setResult_none_pcount (b : Block) : (b.setResult none).pcount = b.pcount := rfl
@[simp] theorem Block_setResult_none_time (b : Block) : (b.setResult none).time = b.time := rfl
@[simp] theorem Block_setResult_none_argBits (b : Block) : (b.setResult none).argBits = b.argBits := rfl
@[simp] theorem Block_setResult_none_argVal (b : Block) : (b.setResult none).argVal = b.argVal := rfl
@[simp] theorem Block_setResult_none_resId (b : Block) : (b.setResult none).resId = 0 := rfl
@[simp] theorem Block_setResult_none_resBits (b : Block) : (b.setResult none).resBits = 0 := rfl
@[simp] theorem Block_setResult_none_resVal (b : Block) : (b.setResult none).resVal = 0 := rfl
@[simp] theorem Block_setResult_none_matchFlag (b : Block) : (b.setResult none).matchFlag = false := rfl
@[simp] theorem Block_setResult_none_dupFlag (b : Block) : (b.setResult none).dupFlag = b.dupFlag := rfl
@[simp] theorem Block_setResult_none_cmdErr (b : Block) : (b.setResult none).cmdErr = b.cmdErr := rfl
@[simp] theorem Block_setResult_none_pulses (b : Block) : (b.setResult none).pulses = b.pulses := rfl
@[simp] theorem Block_setResult_none_log (b : Block) : (b.setResult none).log = b.log := rfl

-- a decode result

@[simp] theorem Block_setResult_some_pcount (b : Block) (d : Decoded) : (b.setResult (some d)).pcount = b.pcount := rfl
@[simp] theorem Block_setResult_some_time (b : Block) (d : Decoded) : (b.setResult (some d)).time = b.time := rfl
@[simp] theorem Block_setResult_some_argBits (b : Block) (d : Decoded) : (b.setResult (some d)).argBits = b.argBits := rfl
@[simp] theorem Block_setResult_some_argVal (b : Block) (d : Decoded) : (b.setResult (some d)).argVal = b.argVal := rfl
@[simp] theorem Block_setResult_some_resId (b : Block) (d : Decoded) : (b.setResult (some d)).resId = d.id := rfl
@[simp] theorem Block_setResult_some_resBits (b : Block) (d : Decoded) : (b.setResult (some d)).resBits = d.bits := rfl
@[simp] theorem Block_setResult_some_resVal (b : Block) (d : Decoded) : (b.setResult (some d)).resVal = d.val := rfl
@[simp] theorem Block_setResult_some_matchFlag (b : Block) (d : Decoded) : (b.setResult (some d)).matchFlag = true := rfl
@[simp] theorem Block_setResult_some_dupFlag (b : Block) (d : Decoded) : (b.setResult (some d)).dupFlag = b.dupFlag := rfl
@[simp] theorem Block_setResult_some_cmdErr (b : Block) (d : Decoded) : (b.setResult (some d)).cmdErr = b.cmdErr := rfl
@[simp] theorem Block_setResult_some_pulses (b : Block) (d : Decoded) : (b.setResult (some d)).pulses = b.pulses := rfl
@[simp] theorem Block_setResult_some_log (b : Block) (d : Decoded) : (b.setResult (some d)).log = b.log := rfl

-- ARG <- RES

@[simp] theorem Block_argsFromResult_pcount (b : Block) : (b.argsFromResult).pcount = b.pcount := rfl
@[simp] theorem Block_argsFromResult_time (b : Block) : (b.argsFromResult).time = b.time := rfl
@[simp] theorem Block_argsFromResult_argBits (b : Block) : (b.argsFromResult).argBits = b.resBits := rfl
@[simp] theorem Block_argsFromResult_argVal (b : Block) : (b.argsFromResult).argVal = b.resVal := rfl
@[simp] theorem Block_argsFromResult_resId (b : Block) : (b.argsFromResult).resId = b.resId := rfl
@[simp] theorem Block_argsFromResult_resBits (b : Block) : (b.argsFromResult).resBits = b.resBits := rfl
@[simp] theorem Block_argsFromResult_resVal (b : Block) : (b.argsFromResult).resVal = b.resVal := rfl
@[simp] theorem Block_argsFromResult_matchFlag (b : Block) : (b.argsFromResult).matchFlag = b.matchFlag := rfl
@[simp] theorem Block_argsFromResult_dupFlag (b : Block) : (b.argsFromResult).dupFlag = b.dupFlag := rfl
@[simp] theorem Block_argsFromResult_cmdErr (b : Block) : (b.argsFromResult).cmdErr = b.cmdErr := rfl
@[simp] theorem Block_argsFromResult_pulses (b : Block) : (b.argsFromResult).pulses = b.pulses := rfl
@[simp] theorem Block_argsFromResult_log (b : Block) : (b.argsFromResult).log = b.log := rfl

-- LOG[i] <- e

@[simp] theorem Block_setLog_pcount (b : Block) (i : Fin 20) (e : LogEntry) : (b.setLog i e).pcount = b.pcount := rfl
@[simp] theorem Block_setLog_time (b : Block) (i : Fin 20) (e : LogEntry) : (b.setLog i e).time = b.time := rfl
@[simp] theorem Block_setLog_argBits (b : Block) (i : Fin 20) (e : LogEntry) : (b.setLog i e).argBits = b.argBits := rfl
@[simp] theorem Block_setLog_argVal (b : Block) (i : Fin 20) (e : LogEntry) : (b.setLog i e).argVal = b.argVal := rfl
@[simp] theorem Block_setLog_resId (b : Block) (i : Fin 20) (e : LogEntry) : (b.setLog i e).resId = b.resId := rfl
@[simp] theorem Block_setLog_resBits (b : Block) (i : Fin 20) (e : LogEntry) : (b.setLog i e).resBits = b.resBits := rfl
@[simp] theorem Block_setLog_resVal (b : Block) (i : Fin 20) (e : LogEntry) : (b.setLog i e).resVal = b.resVal := rfl
@[simp] theorem Block_setLog_matchFlag (b : Block) (i : Fin 20) (e : LogEntry) : (b.setLog i e).matchFlag = b.matchFlag := rfl
@[simp] theorem Block_setLog_dupFlag (b : Block) (i : Fin 20) (e : LogEntry) : (b.setLog i e).dupFlag = b.dupFlag := rfl
@[simp] theorem Block_setLog_cmdErr (b : Block) (i : Fin 20) (e : LogEntry) : (b.setLog i e).cmdErr = b.cmdErr := rfl
@[simp] theorem Block_setLog_pulses (b : Block) (i : Fin 20) (e : LogEntry) : (b.setLog i e).pulses = b.pulses := rfl
@[simp] theorem Block_setLog_log (b : Block) (i : Fin 20) (e : LogEntry) : (b.setLog i e).log = b.log.set i e := rfl

-- a pulse pair

@[simp] theorem Block_setPulsePair_pcount (b : Block) (w : Fin 64) (p q : Pulse) : (b.setPulsePair w p q).pcount = b.pcount := rfl
@[simp] theorem Block_setPulsePair_time (b : Block) (w : Fin 64) (p q : Pulse) : (b.setPulsePair w p q).time = b.time := rfl
@[simp] theorem Block_setPulsePair_argBits (b : Block) (w : Fin 64) (p q : Pulse) : (b.setPulsePair w p q).argBits = b.argBits := rfl
@[simp] theorem Block_setPulsePair_argVal (b : Block) (w : Fin 64) (p q : Pulse) : (b.setPulsePair w p q).argVal = b.argVal := rfl
@[simp] theorem Block_setPulsePair_resId (b : Block) (w : Fin 64) (p q : Pulse) : (b.setPulsePair w p q).resId = b.resId := rfl
@[simp] theorem Block_setPulsePair_resBits (b : Block) (w : Fin 64) (p q : Pulse) : (b.setPulsePair w p q).resBits = b.resBits := rfl
@[simp] theorem Block_setPulsePair_resVal (b : Block) (w : Fin 64) (p q : Pulse) : (b.setPulsePair w p q).resVal = b.resVal := rfl
@[simp] theorem Block_setPulsePair_matchFlag (b : Block) (w : Fin 64) (p q : Pulse) : (b.setPulsePair w p q).matchFlag = b.matchFlag := rfl
@[simp] theorem Block_setPulsePair_dupFlag (b : Block) (w : Fin 64) (p q : Pulse) : (b.setPulsePair w p q).dupFlag = b.dupFlag := rfl
@[simp] theorem Block_setPulsePair_cmdErr (b : Block) (w : Fin 64) (p q : Pulse) : (b.setPulsePair w p q).cmdErr = b.cmdErr := rfl
@[simp] theorem Block_setPulsePair_pulses (b : Block) (w : Fin 64) (p q : Pulse) : (b.setPulsePair w p q).pulses = (b.pulses.set (2 * w) p).set (2 * w + 1) q := rfl
@[simp] theorem Block_setPulsePair_log (b : Block) (w : Fin 64) (p q : Pulse) : (b.setPulsePair w p q).log = b.log := rfl

-- fields that a decode result of either kind leaves

@[simp] theorem Block_setResult_pcount (b : Block) (r : Option Decoded) : (b.setResult r).pcount = b.pcount := by cases r <;> rfl
@[simp] theorem Block_setResult_time (b : Block) (r : Option Decoded) : (b.setResult r).time = b.time := by cases r <;> rfl
@[simp] theorem Block_setResult_argBits (b : Block) (r : Option Decoded) : (b.setResult r).argBits = b.argBits := by cases r <;> rfl
@[simp] theorem Block_setResult_argVal (b : Block) (r : Option Decoded) : (b.setResult r).argVal = b.argVal := by cases r <;> rfl
@[simp] theorem Block_setResult_dupFlag (b : Block) (r : Option Decoded) : (b.setResult r).dupFlag = b.dupFlag := by cases r <;> rfl
@[simp] theorem Block_setResult_cmdErr (b : Block) (r : Option Decoded) : (b.setResult r).cmdErr = b.cmdErr := by cases r <;> rfl
@[simp] theorem Block_setResult_pulses (b : Block) (r : Option Decoded) : (b.setResult r).pulses = b.pulses := by cases r <;> rfl
@[simp] theorem Block_setResult_log (b : Block) (r : Option Decoded) : (b.setResult r).log = b.log := by cases r <;> rfl

@[simp] theorem Block_setResult_matchFlag (b : Block) (r : Option Decoded) : (b.setResult r).matchFlag = r.isSome := by cases r <;> rfl

-- the machine

@[simp] theorem State_resetBlock_block (s : State) : (s.resetBlock).block = Block.reset := rfl
@[simp] theorem State_resetBlock_registry (s : State) : (s.resetBlock).registry = s.registry := rfl
@[simp] theorem State_resetBlock_script (s : State) : (s.resetBlock).script = s.script := rfl
@[simp] theorem State_resetBlock_returned (s : State) : (s.resetBlock).returned = s.returned := rfl

@[simp] theorem State_illegalCommand_block (s : State) : (s.illegalCommand).block = s.block.raiseCmdErr := rfl
@[simp] theorem State_illegalCommand_registry (s : State) : (s.illegalCommand).registry = s.registry := rfl
@[simp] theorem State_illegalCommand_script (s : State) : (s.illegalCommand).script = s.script := rfl
@[simp] theorem State_illegalCommand_returned (s : State) : (s.illegalCommand).returned = s.returned := rfl

@[simp] theorem State_returnWord_block (s : State) (w : Word) : (s.returnWord w).block = s.block := rfl
@[simp] theorem State_returnWord_registry (s : State) (w : Word) : (s.returnWord w).registry = s.registry := rfl
@[simp] theorem State_returnWord_script (s : State) (w : Word) : (s.returnWord w).script = s.script := rfl
@[simp] theorem State_returnWord_returned (s : State) (w : Word) : (s.returnWord w).returned = s.returned ++ [w] := rfl

-- the operands and the reset state

@[simp] theorem Block_reset_pcount : Block.reset.pcount = 0 := rfl
@[simp] theorem Block_reset_time : Block.reset.time = 0 := rfl
@[simp] theorem Block_reset_argBits : Block.reset.argBits = 0 := rfl
@[simp] theorem Block_reset_argVal : Block.reset.argVal = 0 := rfl
@[simp] theorem Block_reset_resId : Block.reset.resId = 0 := rfl
@[simp] theorem Block_reset_resBits : Block.reset.resBits = 0 := rfl
@[simp] theorem Block_reset_resVal : Block.reset.resVal = 0 := rfl
@[simp] theorem Block_reset_matchFlag : Block.reset.matchFlag = false := rfl
@[simp] theorem Block_reset_dupFlag : Block.reset.dupFlag = false := rfl
@[simp] theorem Block_reset_cmdErr : Block.reset.cmdErr = false := rfl
@[simp] theorem Block_reset_pulse (i : Nat) (h : i < 128) : Block.reset.pulses[i] = pulseReset := by simp [Block.reset]
@[simp] theorem Block_reset_log (i : Nat) (h : i < 20) : Block.reset.log[i] = logEntryReset := by simp [Block.reset]
@[simp] theorem Block_train_n (b : Block) : b.train.n = b.pcount.toNat := rfl
@[simp] theorem Block_train_pulses (b : Block) : b.train.pulses = b.pulses := rfl
@[simp] theorem Block_signal_time (b : Block) : b.signal.time = b.time := rfl
@[simp] theorem Block_signal_bits (b : Block) : b.signal.bits = b.argBits := rfl
@[simp] theorem Block_signal_val (b : Block) : b.signal.val = b.argVal := rfl

/-- Inside the buffer, P(i) is slot i. -/
theorem Train_pulse_eq_getElem (t : Train) (i : Nat) (h : i < 128) : t.pulse i = t.pulses[i] := by
  simp [Train.pulse, h]

/-- An entry of the log after `setLog`. -/
theorem Block_setLog_getElem (b : Block) (i j : Fin 20) (e : LogEntry) :
    (b.setLog i e).log[j] = if i = j then e else b.log[j] := by
  simp [Vector.getElem_set, Fin.ext_iff]

/-- A pulse slot after `setPulsePair`. -/
theorem Block_setPulsePair_getElem (b : Block) (w : Fin 64) (p q : Pulse) (i : Nat) (h : i < 128) :
    (b.setPulsePair w p q).pulses[i] =
      if i = 2 * w.val then p else if i = 2 * w.val + 1 then q else b.pulses[i] := by
  simp only [Block_setPulsePair_pulses, Vector.getElem_set]
  split <;> split <;> grind

end Sys2Proof.Machine
end

