-- ==== Sys2Proof/Laws/Decoder.lean ====
section
/-! SUPPORT. What the matcher, the symbol loop and the registry walk can do. -/

namespace Sys2Proof.Machine

/-- The tolerance test as an inequality. -/
@[simp] theorem inTolerance_eq_true (m : BitVec 15) (e : Nat) (tol : BitVec 8) (widen : Bool) :
    inTolerance m e tol widen = true ↔ absDiff m.toNat e * 100 < e * effectiveTolerance tol widen := by
  simp [inTolerance]

/-- One unfolding of the symbol loop past the end of the train. -/
theorem symbolLoop_done (d : Definition) (t : Train) (l k c : Nat) (a : Accumulator) (h : l ≤ c) :
    symbolLoop d t l k c a = some a := by
  cases k <;> simp [symbolLoop, Nat.not_lt.mpr h]

/-- One iteration of the symbol loop. -/
theorem symbolLoop_more (d : Definition) (t : Train) (l k c : Nat) (a : Accumulator) (h : c < l) :
    symbolLoop d t l (k + 1) c a =
      (symbolAt d t l c).bind fun bit => symbolLoop d t l k (c + 2) (a.push bit) := by
  simp only [symbolLoop, h, if_true]
  cases symbolAt d t l c <;> rfl

/-- One more symbol: the accumulator doubles and takes the bit, mod 2^64. -/
theorem Accumulator_push_toNat (a : Accumulator) (b : Bool) :
    (a.push b).acc.toNat = (2 * a.acc.toNat + b.toNat) % 2 ^ 64 := by
  cases b <;> simp [Accumulator.push, BitVec.toNat_add, BitVec.toNat_mul] <;> omega

/-- The value of a list of bits read on from a start value. -/
theorem foldl_bits_eq (bits : List Bool) (v : Nat) :
    bits.foldl (fun v b => 2 * v + b.toNat) v = v * 2 ^ bits.length + bits.foldl (fun v b => 2 * v + b.toNat) 0 := by
  induction bits generalizing v with
  | nil => simp
  | cons b bs ih =>
    simp only [List.foldl_cons, List.length_cons]
    rw [ih, ih (2 * 0 + b.toNat)]
    ring

/-- The value of a list of bits read on from a start value, mod 2^64, depends on the start value mod 2^64 only. -/
theorem foldl_bits_mod (bits : List Bool) (v : Nat) :
    bits.foldl (fun v b => 2 * v + b.toNat) (v % 2 ^ 64) % 2 ^ 64 = bits.foldl (fun v b => 2 * v + b.toNat) v % 2 ^ 64 := by
  rw [foldl_bits_eq bits (v % 2 ^ 64), foldl_bits_eq bits v, Nat.add_mod, Nat.mul_mod, Nat.mod_mod, ← Nat.mul_mod, ← Nat.add_mod]

/-- With no pulse left the loop answers what it has accumulated, which is the empty list of symbols more. -/
theorem symbolLoop_end (d : Definition) (t : Train) (l k c : Nat) (a a' : Accumulator) (h : l ≤ c) :
    symbolLoop d t l k c a = some a' ↔ ∃ bits : List Bool, bits.length = (l - c + 1) / 2 ∧
      (∀ j (h : j < bits.length), symbolAt d t l (c + 2 * j) = some bits[j]) ∧ a'.bits = a.bits + bits.length ∧
      a'.acc.toNat = bits.foldl (fun v b => 2 * v + b.toNat) a.acc.toNat % 2 ^ 64 := by
  rw [symbolLoop_done _ _ _ _ _ _ h]
  constructor
  · rintro ⟨⟩
    exact ⟨[], by simp; omega, by simp, by simp, by simp [Nat.mod_eq_of_lt a.acc.isLt]⟩
  · rintro ⟨bits, h1, -, h3, h4⟩
    obtain rfl : bits = [] := List.length_eq_zero_iff.mp (by omega)
    obtain ⟨n, v⟩ := a
    obtain ⟨n', v'⟩ := a'
    simp only [List.length_nil, Nat.add_zero, List.foldl_nil, Nat.mod_eq_of_lt v.isLt] at h3 h4
    rw [h3, BitVec.eq_of_toNat_eq h4]

/-- Everything the symbol loop can answer, when its bound leaves room for every pair: it succeeds exactly when every pair from the cursor on is
a symbol, and it accumulates those symbols, most significant first. -/
theorem symbolLoop_eq_some_iff (d : Definition) (t : Train) (l k c : Nat) (a a' : Accumulator) (hk : l ≤ c + 2 * k) :
    symbolLoop d t l k c a = some a' ↔ ∃ bits : List Bool, bits.length = (l - c + 1) / 2 ∧
      (∀ j (h : j < bits.length), symbolAt d t l (c + 2 * j) = some bits[j]) ∧ a'.bits = a.bits + bits.length ∧
      a'.acc.toNat = bits.foldl (fun v b => 2 * v + b.toNat) a.acc.toNat % 2 ^ 64 := by
  induction k generalizing c a with
  | zero => exact symbolLoop_end d t l 0 c a a' (by omega)
  | succ k ih =>
    by_cases hc : l ≤ c
    · exact symbolLoop_end d t l (k + 1) c a a' hc
    rw [symbolLoop_more _ _ _ _ _ _ (by omega)]
    cases hs : symbolAt d t l c with
    | none =>
      constructor
      · intro h
        cases h
      · rintro ⟨bits, h1, h2, -⟩
        have := h2 0 (by omega)
        simp [hs] at this
    | some b =>
      rw [Option.bind_some, ih (c + 2) (a.push b) (by omega), Accumulator_push_toNat]
      simp only [foldl_bits_mod]
      constructor
      · rintro ⟨bits, h1, h2, h3, h4⟩
        refine ⟨b :: bits, by simp [h1]; omega, ?_, by simp [h3, Accumulator.push]; ring, h4⟩
        rintro (_ | j) hj
        · simpa using hs
        · have := h2 j (by simpa using hj)
          rw [List.getElem_cons_succ, ← this]
          congr 1
          ring
      · rintro ⟨_ | ⟨b', bits⟩, h1, h2, h3, h4⟩
        · simp at h1
          omega
        obtain rfl : b = b' := by
          have := h2 0 (by simp)
          simpa [hs] using this
        refine ⟨bits, by simp at h1; omega, ?_, by simp at h3; simp [h3, Accumulator.push]; ring, h4⟩
        intro j hj
        have := h2 (j + 1) (by simpa using hj)
        rw [List.getElem_cons_succ] at this
        rw [← this]
        congr 1
        ring

/-- The cursor after alignment and sync is 0, 1, 2 or 3. -/
theorem firstCursor_le (d : Definition) (t : Train) : firstCursor d t ≤ 3 := by
  unfold firstCursor syncCursor alignCursor
  split <;> split <;> omega

/-- L is n - 1 or n - 2. -/
theorem lastUsable_cases (d : Definition) (t : Train) : lastUsable d t = t.n - 1 ∨ lastUsable d t = t.n - 2 := by
  unfold lastUsable
  split <;> simp

/-- What one entry contributes. -/
theorem attempt_eq_some_iff (t : Train) (d : Definition) (r : Decoded) :
    attempt t d = some r ↔
      d.family = Config.familyPwm ∧ ∃ a, tryDefinition d t = some a ∧ r = ⟨d.id, BitVec.ofNat 7 a.bits, a.acc⟩ := by
  unfold attempt
  split
  next h => simp [h, eq_comm]
  next h => simp [h]

/-- A train outside 16..128 pulses decodes to nothing. -/
theorem decodeTrain_invalid (reg : List Definition) (t : Train) (h : t.n < 16 ∨ 128 < t.n) : decodeTrain reg t = none := by
  have hv : t.valid = false := by
    rw [← Bool.not_eq_true]
    simp only [Train.valid, Config.minPulses, Config.pulseCap, Bool.and_eq_true, decide_eq_true_eq]
    omega
  simp [decodeTrain, hv]

/-- A train inside 16..128 pulses decodes to the first entry that matches. -/
theorem decodeTrain_valid (reg : List Definition) (t : Train) (h : 16 ≤ t.n) (h' : t.n ≤ 128) :
    decodeTrain reg t = reg.findSome? (attempt t) := by
  have hv : t.valid = true := by simp [Train.valid, Config.minPulses, Config.pulseCap, h, h']
  simp [decodeTrain, hv]

/-- Everything a decode can answer: nothing, or the result of an entry of the registry on a train of legal length. -/
theorem decodeTrain_cases (reg : List Definition) (t : Train) :
    decodeTrain reg t = none ∨
      ∃ d ∈ reg, ∃ a, 16 ≤ t.n ∧ t.n ≤ 128 ∧ d.family = Config.familyPwm ∧ tryDefinition d t = some a ∧
        decodeTrain reg t = some ⟨d.id, BitVec.ofNat 7 a.bits, a.acc⟩ := by
  by_cases hv : 16 ≤ t.n ∧ t.n ≤ 128
  · rw [decodeTrain_valid reg t hv.1 hv.2]
    cases hf : reg.findSome? (attempt t) with
    | none => exact .inl rfl
    | some r =>
      obtain ⟨d, hd, ha⟩ := List.exists_of_findSome?_eq_some hf
      obtain ⟨hfam, a, htry, rfl⟩ := (attempt_eq_some_iff t d r).mp ha
      exact .inr ⟨d, hd, a, hv.1, hv.2, hfam, htry, rfl⟩
  · exact .inl (decodeTrain_invalid reg t (by omega))

/-- DECODE writes the four result fields; every other field keeps its value. -/
theorem runDecode_frame (b : Block) (reg : List Definition) :
    ∃ m i n v, b.runDecode reg = { b with matchFlag := m, resId := i, resBits := n, resVal := v } := by
  unfold Block.runDecode
  cases decodeTrain reg b.train with
  | none => exact ⟨_, _, _, _, rfl⟩
  | some d => exact ⟨_, _, _, _, rfl⟩

end Sys2Proof.Machine
end

