-- ==== Sys2Proof/Laws/DupFilter.lean ====
section
/-! SUPPORT. What the filter's scan and CHKDUP can do. -/

namespace Sys2Proof.Machine

/-- The scan finds the smallest index that satisfies the test. -/
theorem firstEntry_eq_some_iff (p : LogEntry → Bool) (log : Vector LogEntry 20) (i : Fin 20) :
    firstEntry p log = some i ↔ p log[i] = true ∧ ∀ j : Fin 20, j < i → p log[j] = false := by
  unfold firstEntry
  rw [List.find?_eq_some_iff_getElem]
  constructor
  · rintro ⟨hp, k, hk, hki, hlt⟩
    have hik : k = i.val := by have := congrArg Fin.val hki; simpa using this
    refine ⟨hp, fun j hj => ?_⟩
    have := hlt j.val (by have := Fin.lt_def.mp hj; omega)
    simpa using this
  · rintro ⟨hp, hlt⟩
    refine ⟨hp, i.val, by simp, by simp, fun j hj => ?_⟩
    have hj20 : j < 20 := by omega
    have := hlt ⟨j, hj20⟩ (Fin.lt_def.mpr hj)
    simpa using this

/-- The scan finds nothing when no entry satisfies the test. -/
theorem firstEntry_eq_none_iff (p : LogEntry → Bool) (log : Vector LogEntry 20) :
    firstEntry p log = none ↔ ∀ i : Fin 20, p log[i] = false := by
  unfold firstEntry
  simp [List.find?_eq_none]

/-- The filter's test is of the value alone. -/
@[simp] theorem holdsValue_eq_true (v : Wide) (e : LogEntry) : holdsValue v e = true ↔ e.val = v := by
  simp [holdsValue]

@[simp] theorem holdsValue_eq_false (v : Wide) (e : LogEntry) : holdsValue v e = false ↔ e.val ≠ v := by
  simp [holdsValue]

/-- An entry is stale when more than 1000 ms separate its time from now. -/
@[simp] theorem expired_eq_true (now : Wide) (e : LogEntry) :
    expired now e = true ↔ 1000 < (now.toNat : Int) - (e.last.toNat : Int) := by
  unfold expired age
  rw [decide_eq_true_iff]
  rfl

@[simp] theorem expired_eq_false (now : Wide) (e : LogEntry) :
    expired now e = false ↔ (now.toNat : Int) - (e.last.toNat : Int) ≤ 1000 := by
  rw [← Bool.not_eq_true, expired_eq_true, not_lt]

/-- The millisecond time as a number. -/
theorem nowMs_toNat (t : Wide) : (nowMs t).toNat = t.toNat / 1000 := by
  simp [nowMs]

/-- The scan depends on the outcome of its test at each index only. -/
theorem firstEntry_congr (p q : LogEntry → Bool) (l m : Vector LogEntry 20) (h : ∀ i : Fin 20, p l[i] = q m[i]) :
    firstEntry p l = firstEntry q m := by
  unfold firstEntry
  congr 1
  funext i
  exact h i

/-- Everything CHKDUP can do: refresh the first entry that holds the value, or claim the first stale entry, or record nothing. -/
theorem runChkdup_cases (b : Block) :
    (∃ i, firstEntry (holdsValue b.argVal) b.log = some i ∧
      b.runChkdup = (b.setLog i ⟨nowMs b.time, b.argBits, b.log[i].val⟩).setDup (!expired (nowMs b.time) b.log[i])) ∨
    (firstEntry (holdsValue b.argVal) b.log = none ∧ ∃ i, firstEntry (expired (nowMs b.time)) b.log = some i ∧
      b.runChkdup = (b.setLog i ⟨nowMs b.time, b.argBits, b.argVal⟩).setDup false) ∨
    (firstEntry (holdsValue b.argVal) b.log = none ∧ firstEntry (expired (nowMs b.time)) b.log = none ∧
      b.runChkdup = b.setDup false) := by
  unfold Block.runChkdup
  simp only [Block_signal_time, Block_signal_bits, Block_signal_val]
  cases hv : firstEntry (holdsValue b.argVal) b.log with
  | some i => exact .inl ⟨i, rfl, rfl⟩
  | none =>
    cases hs : firstEntry (expired (nowMs b.time)) b.log with
    | some i => exact .inr (.inl ⟨rfl, i, rfl, rfl⟩)
    | none => exact .inr (.inr ⟨rfl, rfl, rfl⟩)

/-- CHKDUP writes DUP and the log; every other field keeps its value. -/
theorem runChkdup_frame (b : Block) :
    ∃ l d, b.runChkdup = { b with log := l, dupFlag := d } := by
  rcases runChkdup_cases b with ⟨i, -, h⟩ | ⟨-, i, -, h⟩ | ⟨-, -, h⟩ <;> rw [h]
  · exact ⟨_, _, rfl⟩
  · exact ⟨_, _, rfl⟩
  · exact ⟨_, _, rfl⟩

end Sys2Proof.Machine
end

