-- ==== Sys2Proof/Laws/Control.lean ====
section
/-! SUPPORT. What EVENT can do. -/

namespace Sys2Proof.Machine

/-- Everything EVENT can do: without a decode result it writes the empty result and DUP = 0, with one it is CHKDUP on that result. -/
theorem runEvent_cases (b : Block) (reg : List Definition) :
    (decodeTrain reg b.train = none ∧ b.runEvent reg = (b.setResult none).setDup false) ∨
    (∃ r, decodeTrain reg b.train = some r ∧ b.runEvent reg = (b.setResult (some r)).argsFromResult.runChkdup) := by
  unfold Block.runEvent Block.runDecode
  cases decodeTrain reg b.train with
  | none => exact .inl ⟨rfl, rfl⟩
  | some r => exact .inr ⟨r, rfl, rfl⟩

end Sys2Proof.Machine
end

