-- ==== Sys2Proof/Laws/Encoding.lean ====
section
/-! SUPPORT. Laws of the bit-field helpers: fields of a concatenation, halves of a pair, the two pulses of a word, the command cell of
the window. -/

namespace Sys2Proof

-- Fields of a concatenation, with the widths free

/-- A field that lies in the low part. -/
theorem extract_append_low {n m : Nat} (x : BitVec n) (y : BitVec m) (k w : Nat) (h : k + w ≤ m) :
    (x ++ y).extractLsb' k w = y.extractLsb' k w := by
  ext i hi
  have : k + i < m := by omega
  simp [BitVec.getLsbD_append, this]

/-- A field that lies in the high part. -/
theorem extract_append_high {n m : Nat} (x : BitVec n) (y : BitVec m) (k w : Nat) (h : m ≤ k) :
    (x ++ y).extractLsb' k w = x.extractLsb' (k - m) w := by
  ext i hi
  have : ¬ k + i < m := by omega
  simp [BitVec.getLsbD_append, this, show k + i - m = k - m + i by omega]

/-- The whole of a bit vector as a field of itself. -/
theorem extract_all {n : Nat} (x : BitVec n) : x.extractLsb' 0 n = x := by
  ext i hi
  simp

/-- A bit vector is its high field next to its low field. -/
theorem append_extract {n m : Nat} (x : BitVec (n + m)) : x.extractLsb' m n ++ x.extractLsb' 0 m = x := by
  ext i hi
  simp only [BitVec.getElem_append, BitVec.getElem_extractLsb']
  split
  · simp [BitVec.getLsbD_eq_getElem hi]
  · simp [show m + (i - m) = i by omega, BitVec.getLsbD_eq_getElem hi]

/-- A single bit next to a bit vector, read back. -/
theorem getLsbD_append_ofBool {m : Nat} (b : Bool) (y : BitVec m) : (BitVec.ofBool b ++ y).getLsbD m = b := by
  rw [BitVec.getLsbD_append]
  simp

-- Halves of a pair

@[simp] theorem loHalf_joinHalves (hi lo : Word) : loHalf (joinHalves hi lo) = lo :=
  (extract_append_low hi lo 0 32 (by omega)).trans (extract_all lo)

@[simp] theorem hiHalf_joinHalves (hi lo : Word) : hiHalf (joinHalves hi lo) = hi :=
  (extract_append_high hi lo 32 32 (by omega)).trans (extract_all hi)

@[simp] theorem joinHalves_halves (x : Wide) : joinHalves (hiHalf x) (loHalf x) = x :=
  append_extract (n := 32) (m := 32) x

-- Pulses of a word

@[simp] theorem halfToPulse_pulseToHalf (p : Pulse) : halfToPulse (pulseToHalf p) = p := by
  have hd : (pulseToHalf p).extractLsb' 0 15 = p.dur :=
    (extract_append_low (BitVec.ofBool p.lvl) p.dur 0 15 (by omega)).trans (extract_all p.dur)
  have hl : (pulseToHalf p).getLsbD 15 = p.lvl := getLsbD_append_ofBool p.lvl p.dur
  simp only [halfToPulse, hd, hl]

@[simp] theorem pulseToHalf_halfToPulse (h : BitVec 16) : pulseToHalf (halfToPulse h) = h := by
  have hb : BitVec.ofBool (h.getLsbD 15) = h.extractLsb' 15 1 := by
    ext i hi
    simp [show i = 0 by omega]
  simp only [pulseToHalf, halfToPulse, hb]
  exact append_extract (n := 1) (m := 15) h

@[simp] theorem wordToEvenPulse_pulsesToWord (p q : Pulse) : wordToEvenPulse (pulsesToWord p q) = p := by
  have h : (pulsesToWord p q).extractLsb' 0 16 = pulseToHalf p :=
    (extract_append_low (pulseToHalf q) (pulseToHalf p) 0 16 (by omega)).trans (extract_all _)
  rw [wordToEvenPulse, h, halfToPulse_pulseToHalf]

@[simp] theorem wordToOddPulse_pulsesToWord (p q : Pulse) : wordToOddPulse (pulsesToWord p q) = q := by
  have h : (pulsesToWord p q).extractLsb' 16 16 = pulseToHalf q :=
    (extract_append_high (pulseToHalf q) (pulseToHalf p) 16 16 (by omega)).trans (extract_all _)
  rw [wordToOddPulse, h, halfToPulse_pulseToHalf]

@[simp] theorem pulsesToWord_halves (w : Word) : pulsesToWord (wordToEvenPulse w) (wordToOddPulse w) = w := by
  unfold pulsesToWord wordToEvenPulse wordToOddPulse
  rw [pulseToHalf_halfToPulse, pulseToHalf_halfToPulse]
  exact append_extract (n := 16) (m := 16) w

-- The numbers of fields and words

theorem loHalf_toNat (x : Wide) : (loHalf x).toNat = x.toNat % 2 ^ 32 := by
  simp [loHalf, BitVec.extractLsb'_toNat]

theorem hiHalf_toNat (x : Wide) : (hiHalf x).toNat = x.toNat / 2 ^ 32 := by
  simp only [hiHalf, BitVec.extractLsb'_toNat, Nat.shiftRight_eq_div_pow]
  have := x.isLt
  omega

/-- The number of a concatenation, with the widths free. -/
theorem append_toNat {n m : Nat} (x : BitVec n) (y : BitVec m) : (x ++ y).toNat = x.toNat * 2 ^ m + y.toNat := by
  rw [BitVec.toNat_append, ← Nat.shiftLeft_add_eq_or_of_lt y.isLt, Nat.shiftLeft_eq]

theorem joinHalves_toNat (hi lo : Word) : (joinHalves hi lo).toNat = hi.toNat * 2 ^ 32 + lo.toNat :=
  append_toNat hi lo

theorem opField_toNat (w : Word) : (opField w).toNat = w.toNat % 256 := by
  simp [opField, BitVec.extractLsb'_toNat]

theorem rsvField_toNat (w : Word) : (rsvField w).toNat = w.toNat / 256 := by
  simp only [rsvField, BitVec.extractLsb'_toNat, Nat.shiftRight_eq_div_pow]
  have := w.isLt
  omega

-- The command cell of the window

@[simp] theorem locate_cmd_addr : locate (regAddr .cmd) = some .cmd := by decide

/-- CMD is the one word at address 0. -/
theorem locate_eq_cmd_iff (a : BusAddr) : locate a = some .cmd ↔ a = 0 := by
  revert a
  decide +kernel

end Sys2Proof
end

