-- ==== Sys2Proof/Laws/PerInstr.lean ====
section
/-! SUPPORT. Statements about every command as syntax, one lemma per constructor of `Instr`. -/

/-- The bytes of a command decode to it, and nothing is left over. -/
def Sys2Proof.Laws.RoundTrip.Statement (i : Sys2Proof.Instr) : Prop :=
  Sys2Proof.decode (Sys2Proof.encode i) = .ok (i, [])

theorem Sys2Proof.Laws.RoundTrip.nop : Sys2Proof.Laws.RoundTrip.Statement .nop := rfl

theorem Sys2Proof.Laws.RoundTrip.decode : Sys2Proof.Laws.RoundTrip.Statement .decode := rfl

theorem Sys2Proof.Laws.RoundTrip.chkdup : Sys2Proof.Laws.RoundTrip.Statement .chkdup := rfl

theorem Sys2Proof.Laws.RoundTrip.event : Sys2Proof.Laws.RoundTrip.Statement .event := rfl

theorem Sys2Proof.Laws.RoundTrip.reset : Sys2Proof.Laws.RoundTrip.Statement .reset := rfl
end

