-- ==== Sys2Proof/Laws/Step.lean ====
section
/-! SUPPORT. The equations of one step, one per kind of host event, and what a write of a window word can do. -/

namespace Sys2Proof.Machine

theorem step_idle (s : State) (h : s.script = []) : step s = .next s := by
  simp [step, State.nextEvent, h]

theorem step_event (s : State) (e : HostEvent) (rest : List HostEvent) (h : s.script = e :: rest) :
    step s = perform e { s with script := rest } := by
  simp [step, State.nextEvent, h]

theorem perform_read (a : BusAddr) (s : State) :
    perform (.read a) s = .next (s.returnWord (readWord s.registry s.block a)) := rfl

theorem perform_hardReset (s : State) : perform .hardReset s = .next s.resetBlock := rfl

theorem perform_write_cmd (v : Word) (s : State) : perform (.write (regAddr .cmd) v) s = issue v s := by
  simp [perform]

theorem perform_write_other (a : BusAddr) (v : Word) (s : State) (h : a ≠ 0) :
    perform (.write a v) s = .next { s with block := writeWord s.block a v } := by
  simp only [perform, locate_eq_cmd_iff, if_neg h]

@[simp] theorem core_step (s : State) : Host.Core.step core s = step s := rfl

@[simp] theorem run_zero (s : State) : Host.Core.run core 0 s = .next s := rfl

/-- A run of any machine goes on from the state its first step answers. -/
theorem run_succ_of_next (m : Host.Core) (n : Nat) (s t : m.State) (h : m.step s = .next t) : m.run (n + 1) s = m.run n t := by
  simp only [Host.Core.run, h]

/-- A run goes on from the state its first step answers. -/
theorem run_succ_of_step (n : Nat) (s t : State) (h : step s = .next t) :
    Host.Core.run core (n + 1) s = Host.Core.run core n t :=
  run_succ_of_next core n s t h

/-- Every step answers a next state, takes its event from the script, and leaves the registry. -/
theorem step_next (s : State) : ∃ t, step s = .next t ∧ t.script = s.script.tail ∧ t.registry = s.registry := by
  cases hs : s.script with
  | nil => exact ⟨s, step_idle s hs, by simp [hs], rfl⟩
  | cons e rest =>
    rw [step_event s e rest hs]
    cases e with
    | read a => exact ⟨_, rfl, rfl, rfl⟩
    | hardReset => exact ⟨_, rfl, rfl, rfl⟩
    | write a v =>
      unfold perform issue
      dsimp only
      split
      · cases decodeWord v with
        | ok i =>
          obtain ⟨b, hb⟩ : ∃ b, exec i { s with script := rest } = .next { s with script := rest, block := b } := by
            cases i <;> exact ⟨_, rfl⟩
          exact ⟨_, hb, rfl, rfl⟩
        | error e => exact ⟨_, rfl, rfl, rfl⟩
      · exact ⟨_, rfl, rfl, rfl⟩

/-- Two runs one after the other are one run. -/
theorem run_append (n m : Nat) (s t : State) (h : Host.Core.run core n s = .next t) :
    Host.Core.run core (n + m) s = Host.Core.run core m t := by
  induction n generalizing s with
  | zero => cases h; simp
  | succ n ih =>
    obtain ⟨u, hu, -, -⟩ := step_next s
    rw [run_succ_of_step n s u hu] at h
    rw [show n + 1 + m = (n + m) + 1 by omega, run_succ_of_step (n + m) s u hu]
    exact ih u h

/-- Every command answers a next state that differs in the block alone. -/
theorem exec_next (i : Instr) (s : State) : ∃ b, exec i s = .next { s with block := b } := by
  cases i
  · exact ⟨s.block, rfl⟩
  · exact ⟨s.block.runDecode s.registry, rfl⟩
  · exact ⟨s.block.runChkdup, rfl⟩
  · exact ⟨s.block.runEvent s.registry, rfl⟩
  · exact ⟨Block.reset, rfl⟩

/-- A write of a window word leaves the flags, the results and the log. -/
theorem writeReg_frame (b : Block) (r : Reg) (v : Word) :
    ∃ n t k w p, writeReg b r v = { b with pcount := n, time := t, argBits := k, argVal := w, pulses := p } := by
  cases r <;> exact ⟨_, _, _, _, _, rfl⟩

theorem writeWord_frame (b : Block) (a : BusAddr) (v : Word) :
    ∃ n t k w p, writeWord b a v = { b with pcount := n, time := t, argBits := k, argVal := w, pulses := p } := by
  unfold writeWord
  cases locate a with
  | none => exact ⟨_, _, _, _, _, rfl⟩
  | some r => exact writeReg_frame b r v

end Sys2Proof.Machine
end

