-- ==== Sys2Proof/Tests/Slice0.lean ====
section
/-! SUPPORT. Tests whose expected values are the spec's own (the vectors of 95_test_vectors.md, the worked words of 30_encoding.md), and for every
obligation with hypotheses the states and operands that meet them. -/

-- One theorem at a time: the kernel evaluations below need no threads of their own.
set_option Elab.async false

namespace Sys2Proof.Tests

open Sys2Proof Sys2Proof.Machine

-- Fixtures of 95_test_vectors.md, section 0

/-- Pulses of these durations, levels alternating from `lvl`. -/
def pulsesFrom (lvl : Bool) : List Nat → List Pulse
  | [] => []
  | d :: ds => ⟨BitVec.ofNat 15 d, lvl⟩ :: pulsesFrom (!lvl) ds

/-- A pulse buffer that holds these pulses from slot 0 on and reset pulses after them. -/
def bufferOf (l : List Pulse) : Vector Pulse 128 :=
  Vector.mk ((List.range 128).map fun i => l.getD i pulseReset).toArray (by simp)

/-- A duplicate log that holds these entries from LOG[0] on and reset entries after them. -/
def logOf (l : List LogEntry) : Vector LogEntry 20 :=
  Vector.mk ((List.range 20).map fun i => l.getD i logEntryReset).toArray (by simp)

/-- The reset block with a pulse train loaded. -/
def blockWithTrain (l : List Pulse) : Block :=
  { Block.reset with pcount := BitVec.ofNat 8 l.length, pulses := bufferOf l }

/-- The reset block with a filter query set up over a log. -/
def blockWithQuery (log : List LogEntry) (t : Nat) (b : Nat) (v : Nat) : Block :=
  { Block.reset with time := BitVec.ofNat 64 t, argBits := BitVec.ofNat 7 b, argVal := BitVec.ofNat 64 v, log := logOf log }

/-- A machine with this block, this registry and this script. -/
def machine (b : Block) (reg : List Definition) (script : List HostEvent) : State := ⟨b, reg, script, []⟩

/-- A machine with this script, the block at reset and no protocols. -/
def scripted (script : List HostEvent) : State := machine Block.reset [] script

/-- The state a step answers, if it answers one. -/
def after (o : Host.Outcome State Fault Refusal) : Option State :=
  match o with
  | .next s => some s
  | .fault _ => none
  | .refused _ => none

/-- MATCH, RES_ID, RES_BITS, RES_VAL. -/
def resultOf (s : State) : Bool × BitVec 8 × BitVec 7 × Wide := (s.block.matchFlag, s.block.resId, s.block.resBits, s.block.resVal)

/-- DUP and the log. -/
def filterOf (s : State) : Bool × List LogEntry := (s.block.dupFlag, s.block.log.toList)

/-- MATCH, RES_ID, RES_BITS, RES_VAL, ARG_BITS, ARG_VAL as numbers. -/
def numbersOf (s : State) : List Nat :=
  [flagValue s.block.matchFlag, s.block.resId.toNat, s.block.resBits.toNat, s.block.resVal.toNat, s.block.argBits.toNat, s.block.argVal.toNat]

/-- P1a1: the source's protocol 1 with `add_last_pulse` = 1. -/
def p1a1 : Definition := ⟨1, 0, 25, 350, ⟨1, 31⟩, ⟨1, 3⟩, ⟨3, 1⟩, false, true⟩

/-- P1a0: the source's protocol 1 with `add_last_pulse` = 0. -/
def p1a0 : Definition := ⟨1, 0, 25, 350, ⟨1, 31⟩, ⟨1, 3⟩, ⟨3, 1⟩, false, false⟩

/-- F7: inverted, `add_last_pulse` = 1. -/
def f7 : Definition := ⟨7, 0, 20, 500, ⟨1, 10⟩, ⟨1, 2⟩, ⟨2, 1⟩, true, true⟩

/-- X3: a reserved family. -/
def x3 : Definition := ⟨3, 1, 25, 350, ⟨1, 31⟩, ⟨1, 3⟩, ⟨3, 1⟩, false, false⟩

/-- S: the source's scenario. -/
def trainS : List Pulse :=
  pulsesFrom true [350, 10850, 350, 1050, 350, 1050, 350, 1050, 350, 1050, 1050, 350, 1050, 350, 1050, 350, 1050, 350]

/-- The train of V10. -/
def trainV10 : List Pulse :=
  pulsesFrom false [500, 5000, 1000, 500, 1000, 500, 500, 1000, 500, 1000, 1000, 500, 500, 1000, 1000, 500, 500, 0]

/-- A train of `n` pairs one, zero of P1 from a high pulse on: V4 for 4, V9 for 32. -/
def trainOnesZeros (n : Nat) : List Pulse := pulsesFrom true (List.replicate n [1050, 350, 350, 1050]).flatten

-- Decoding and encoding

/-- 30_encoding.md R52: the five rows. -/
theorem test_command_words :
    decodeWord 0x00000000 = .ok .nop ∧ decodeWord 0x00000001 = .ok .decode ∧ decodeWord 0x00000002 = .ok .chkdup ∧
    decodeWord 0x00000003 = .ok .event ∧ decodeWord 0x0000000F = .ok .reset := by decide

/-- 30_encoding.md R54: a word with NOP's opcode, the first and last unused opcodes, and a word of ones. -/
theorem test_illegal_words :
    decodeWord 0x00000100 = .error .reservedBits ∧ decodeWord 0x00000101 = .error .reservedBits ∧
    decodeWord 0x00000004 = .error .reservedOpcode ∧ decodeWord 0x0000000E = .error .reservedOpcode ∧
    decodeWord 0x00000010 = .error .reservedOpcode ∧ decodeWord 0x000000FF = .error .reservedOpcode ∧
    decodeWord 0xFFFFFFFF = .error .reservedBits := by decide

/-- opcode_table.json: 32 bits a row. -/
theorem test_table_words :
    decodeTableWord 32 0x0 = some .nop ∧ decodeTableWord 32 0x1 = some .decode ∧ decodeTableWord 32 0x2 = some .chkdup ∧
    decodeTableWord 32 0x3 = some .event ∧ decodeTableWord 32 0xF = some .reset ∧ decodeTableWord 32 0x4 = none := by decide

/-- 30_encoding.md R56: the example word. -/
theorem test_pulse_word :
    pulsesToWord ⟨350, true⟩ ⟨10850, false⟩ = 0x2A62815E ∧ wordToEvenPulse 0x2A62815E = ⟨350, true⟩ ∧
    wordToOddPulse 0x2A62815E = ⟨10850, false⟩ := by decide

/-- 95_test_vectors.md section 0: the words of P1a1 and F7. -/
theorem test_registry_words :
    definitionToRomSlot p1a1 = ⟨0x02190001, 0x1F01015E, 0x01030301, 0⟩ ∧
    wordsToDefinition 0x03140007 0x0A0101F4 0x01020201 = f7 := by decide

/-- 20_memory.md R35: offsets of the first and last words of each region. -/
theorem test_window_offsets :
    (regAddr .resValHi).toNat * 4 = 0x030 ∧ (regAddr (.pulse 63)).toNat * 4 = 0x1FC ∧ (regAddr (.logBits 19)).toNat * 4 = 0x670 ∧
    (regAddr (.regW2 127)).toNat * 4 = 0xFF8 := by decide

-- WellFormed: an ill-formed term for each check, refused

theorem test_wf_family : x3.wf = false := by decide

theorem test_wf_tolerance : ({ p1a1 with tol := 101 } : Definition).wf = false ∧ ({ p1a1 with tol := 100 } : Definition).wf = true := by
  decide

theorem test_wf_registry_entry : registryWf [p1a1, x3] = false := by decide

theorem test_wf_registry_length :
    registryWf (List.replicate 129 p1a1) = false ∧ registryWf (List.replicate 128 p1a1) = true := by decide +kernel

theorem test_wf_script_misaligned : (ScriptLine.wrAt 0x035 0).wf = false ∧ (ScriptLine.rdAt 0x036).wf = false := by decide

theorem test_wf_script_outside : (ScriptLine.wrAt 0x1000 0).wf = false ∧ (ScriptLine.rdAt 0x1000).wf = false ∧
    (ScriptLine.rdAt 0xFFC).wf = true := by decide

theorem test_wf_script_train : (ScriptLine.loadp (List.replicate 129 pulseReset)).wf = false := by decide +kernel

/-- Lines that are not well formed have no transfers. -/
theorem test_expand_refused :
    expandLine (.wrAt 0x035 0) = .error .misaligned ∧ expandLine (.rdAt 0x1000) = .error .outsideWindow ∧
    expandLine (.loadp (List.replicate 129 pulseReset)) = .error .trainTooLong := by decide +kernel

theorem test_rom_refused :
    romImageToRegistry [⟨0x04190001, 0x1F01015E, 0x01030301, 0⟩] = .error .reservedBits ∧
    romImageToRegistry [⟨0x00190001, 0x1F01015E, 0x01030301, 1⟩] = .error .reservedBits ∧
    romImageToRegistry [⟨0x00190103, 0x1F01015E, 0x01030301, 0⟩] = .error .reservedFamily ∧
    romImageToRegistry [⟨0x00650001, 0x1F01015E, 0x01030301, 0⟩] = .error .toleranceAbove100 ∧
    romImageToRegistry (List.replicate 129 (definitionToRomSlot p1a1)) = .error .tooManyEntries := by decide +kernel

/-- 00_scope.md R6: an ill-formed image makes no instance; P1a1 and F7 make one whose NPROTO reads 2 (20_memory.md R35). -/
theorem test_instance :
    State.ofRom [definitionToRomSlot p1a1, definitionToRomSlot x3] = .error .reservedFamily ∧
    (State.ofRom [definitionToRomSlot p1a1, definitionToRomSlot f7]).map (fun s => readWord s.registry s.block 3) = .ok 2 :=
  ⟨rfl, rfl⟩

-- The matcher: rows of 95_test_vectors.md section 2

theorem test_intol_boundaries :
    inTolerance 437 350 25 false = true ∧ inTolerance 438 350 25 false = false ∧ inTolerance 524 350 25 true = true ∧
    inTolerance 525 350 25 true = false ∧ inTolerance 0 350 50 true = false ∧ inTolerance 0 350 51 true = true ∧
    inTolerance 32767 16711425 100 true = true := by decide

theorem test_match_missing_low :
    matchPair 350 0 350 ⟨1, 3⟩ 25 false true = true ∧ matchPair 350 0 350 ⟨1, 3⟩ 25 false false = false ∧
    matchPair 500 0 350 ⟨1, 3⟩ 25 false true = false ∧ matchPair 350 1400 350 ⟨1, 3⟩ 25 false true = false ∧
    matchPair 350 0 350 ⟨1, 0⟩ 25 false true = true := by decide

-- The commands, at most two tests each

/-- X1, over a state with CMDERR set. -/
theorem test_nop : exec .nop (machine { Block.reset with cmdErr := true } [] []) = .next (machine { Block.reset with cmdErr := true } [] []) := rfl

/-- V10: an inverted definition with a last pair that misses its low. -/
theorem test_decode_v10 :
    (after (exec .decode (machine (blockWithTrain trainV10) [p1a0, f7] []))).map resultOf = some (true, 7, 8, 202) := by decide +kernel

/-- V5: a leading pulse at the inactive level. -/
theorem test_decode_v5 :
    (after (exec .decode (machine (blockWithTrain (⟨5000, false⟩ :: trainS)) [p1a1] []))).map resultOf = some (true, 1, 8, 15) := by
  decide +kernel

/-- W3 c: the last microsecond of the window. -/
theorem test_chkdup_w3 :
    (after (exec .chkdup (machine (blockWithQuery [⟨5000, 24, 7⟩] 6000999 24 7) [] []))).map filterOf
      = some (true, (logOf [⟨6000, 24, 7⟩]).toList) := by decide +kernel

/-- W10: a value match on a stale entry claims no other. -/
theorem test_chkdup_w10 :
    (after (exec .chkdup (machine (blockWithQuery [⟨5000, 24, 1⟩, ⟨5001, 24, 2⟩, ⟨5002, 24, 3⟩, ⟨5003, 24, 4⟩] 9000000 20 4) [] []))).map filterOf
      = some (false, (logOf [⟨5000, 24, 1⟩, ⟨5001, 24, 2⟩, ⟨5002, 24, 3⟩, ⟨9000, 20, 4⟩]).toList) := by decide +kernel

/-- The start of X13: S loaded, TIME = 5 000 000, other arguments. -/
def blockX13 : Block := { blockWithTrain trainS with time := 5000000, argVal := 0x99, argBits := 3 }

/-- X13. -/
theorem test_event_match :
    (after (exec .event (machine blockX13 [p1a1] []))).map
        (fun s => (numbersOf s, filterOf s))
      = some ([1, 1, 8, 15, 8, 15], false, (logOf [⟨5000, 8, 15⟩]).toList) := by decide +kernel

/-- X14. -/
theorem test_event_no_match :
    (after (exec .event (machine { blockX13 with pcount := 10, dupFlag := true, matchFlag := true, resId := 1 } [p1a1] []))).map
        (fun s => (numbersOf s, filterOf s))
      = some ([0, 0, 0, 0, 3, 0x99], false, (logOf []).toList) := by decide +kernel

/-- X7. -/
theorem test_reset : exec .reset (machine { blockX13 with cmdErr := true } [p1a1] []) = .next (machine Block.reset [p1a1] []) := rfl

/-- X4: an illegal word with DECODE's opcode runs no DECODE. -/
theorem test_illegal :
    step (machine blockX13 [p1a1] [.write 0 0x00000101]) = .next (machine { blockX13 with cmdErr := true } [p1a1] []) := rfl

/-- X9 to X12: reserved words, masked words and CMD. -/
theorem test_window_accesses :
    (after (Host.Core.run core 6 (scripted [.write 0x00D 0x12345678, .read 0x00D, .write 0x002 0x112, .read 0x002, .read 0x000,
      .write 0x006 0xFFFFFFFF]))).map (fun s => (s.returned, s.block.argBits)) = some ([0, 0x12, 0], 127) := by decide +kernel

/-- From reset, a command word placed where the machine takes its next one is the command the step runs. -/
theorem test_fetch : step (State.reset.withFetchWord 32 0x0F) = exec .reset State.reset ∧
    step (State.reset.withFetchWord 32 0x00) = exec .nop State.reset := ⟨rfl, rfl⟩

/-- Script 1 of 95_test_vectors.md: the first transfer and the count of transfers. -/
theorem test_loadp_lines :
    ∃ es, expandLine (.loadp trainS) = .ok (.write 0x040 0x2A62815E :: es) ∧ es.getLast? = some (.write 0x002 18) ∧ es.length = 9 :=
  ⟨_, rfl, by decide, by decide⟩

-- For every obligation with hypotheses: states and operands that meet them, at the boundary values of each clause

/-- All five commands are well formed. -/
theorem witness_EncodedCommandDecodesToItself :
    Instr.nop.wf = true ∧ Instr.decode.wf = true ∧ Instr.chkdup.wf = true ∧ Instr.event.wf = true ∧ Instr.reset.wf = true := by decide

/-- The first and the last command word. -/
theorem witness_StepRunsTheDecodedCommand :
    ((scripted [.write 0 0x0]).script = [.write 0 0x0] ∧ decodeWord 0x0 = .ok .nop ∧ Instr.nop.wf = true) ∧
    ((scripted [.write 0 0xF]).script = [.write 0 0xF] ∧ decodeWord 0xF = .ok .reset ∧ Instr.reset.wf = true) := by decide

/-- The words next to the legal ones: 0x4, 0xE, 0x10, 0x100, 0xFFFFFFFF. -/
theorem witness_IllegalCommandOnlyRaisesCmdErr :
    (∀ w, (scripted [.write 0 w]).script = [.write 0 w]) ∧
    ∀ w ∈ ([0x4, 0xE, 0x10, 0x100, 0xFFFFFFFF] : List Word),
      w ≠ 0x00000000 ∧ w ≠ 0x00000001 ∧ w ≠ 0x00000002 ∧ w ≠ 0x00000003 ∧ w ≠ 0x0000000F :=
  ⟨fun _ => rfl, by simp⟩

/-- The largest registry; any named word; the first and last reserved words of each range. -/
theorem witness_ReadReturnsTheMappedWord :
    (machine Block.reset (List.replicate 128 p1a1) []).registry.length ≤ 128 ∧
    (∀ r, (scripted [.read (regAddr r)]).script = [.read (regAddr r)]) ∧ (∀ a, (scripted [.read a]).script = [.read a]) ∧
    ∀ a ∈ ([13, 63, 128, 255, 261, 415, 416, 511, 515, 1023] : List BusAddr), ReservedWord a.toNat :=
  ⟨by decide +kernel, fun _ => rfl, fun _ => rfl, by unfold ReservedWord; simp⟩

/-- Words that store nothing: STATUS, NPROTO, RES_ID, RES_VAL_HI, reserved words, the last word; a reserved word, the first slot above
NPROTO = 1, and CMD. -/
theorem witness_ReadOnlyAndReservedWords :
    (∀ a v, (scripted [.write a v]).script = [.write a v]) ∧ (∀ a, (scripted [.read a]).script = [.read a]) ∧
    (∀ a ∈ ([1, 3, 9, 12, 13, 63, 128, 256, 512, 1023] : List BusAddr), a ≠ 0 ∧ ¬ StoringWord a.toNat) ∧
    ReservedWord (13 : BusAddr).toNat ∧ 512 + 4 * (machine Block.reset [p1a1] []).registry.length ≤ (516 : BusAddr).toNat :=
  ⟨fun _ _ => rfl, fun _ => rfl, by unfold StoringWord; simp, by unfold ReservedWord; simp, by decide⟩

/-- A write of any value to any word, of which the storing words are seven kinds. -/
theorem witness_WriteStoresTheNamedBits :
    ∀ r v, (machine blockX13 [p1a1] [.write (regAddr r) v]).script = [.write (regAddr r) v] := fun _ _ => rfl

/-- The first and last words other than CMD. -/
theorem witness_WriteLeavesOtherBytes :
    (∀ a v, (scripted [.write a v]).script = [.write a v]) ∧ ∀ a ∈ ([1, 1023] : List BusAddr), a ≠ 0 :=
  ⟨fun _ _ => rfl, by simp⟩

/-- The first and the last entry of a full registry. -/
theorem witness_RegistryReadsBackThroughTheWindow :
    (machine Block.reset (List.replicate 128 p1a1) []).registry[(0 : Fin 128).val]? = some p1a1 ∧
    (machine Block.reset (List.replicate 128 p1a1) []).registry[(127 : Fin 128).val]? = some p1a1 := by decide +kernel

/-- No pulse, one, an odd and the full number. -/
theorem witness_LoadpLoadsTheTrain :
    ([] : List Pulse).length ≤ 128 ∧ (trainS.take 1).length ≤ 128 ∧ (List.replicate 127 pulseReset).length ≤ 128 ∧
    (List.replicate 127 pulseReset).length % 2 = 1 ∧ (List.replicate 128 pulseReset).length ≤ 128 := by decide +kernel

/-- PCOUNT 15 and 129, and PCOUNT 16 and 128 with a registry of which one entry is skipped and one fails. -/
theorem witness_DecodeWithoutMatchGivesTheEmptyResult :
    ({ blockX13 with pcount := 15 } : Block).pcount.toNat < 16 ∧ 128 < ({ blockX13 with pcount := 129 } : Block).pcount.toNat ∧
    (∀ d ∈ [x3, p1a1], d.family ≠ 0 ∨ tryDefinition d ({ Block.reset with pcount := 16 } : Block).train = none) ∧
    (∀ d ∈ [x3, p1a1], d.family ≠ 0 ∨ tryDefinition d ({ Block.reset with pcount := 128 } : Block).train = none) := by decide +kernel

/-- V4 at 16 pulses and V9 at 128, behind a skipped and a failing definition. -/
theorem witness_DecodeFirstMatchWins :
    (16 ≤ (blockWithTrain (trainOnesZeros 4)).pcount.toNat ∧ (blockWithTrain (trainOnesZeros 4)).pcount.toNat ≤ 128 ∧
      (∀ e ∈ [x3, f7], e.family ≠ 0 ∨ tryDefinition e (blockWithTrain (trainOnesZeros 4)).train = none) ∧
      p1a1.family = 0 ∧ tryDefinition p1a1 (blockWithTrain (trainOnesZeros 4)).train = some ⟨8, 170⟩) ∧
    (16 ≤ (blockWithTrain (trainOnesZeros 32)).pcount.toNat ∧ (blockWithTrain (trainOnesZeros 32)).pcount.toNat ≤ 128 ∧
      tryDefinition p1a1 (blockWithTrain (trainOnesZeros 32)).train = some ⟨64, 0xAAAAAAAAAAAAAAAA⟩) := by decide +kernel

theorem witness_TryIsTheSymbolWalk :
    (16 ≤ (blockWithTrain (trainOnesZeros 4)).train.n ∧ (blockWithTrain (trainOnesZeros 4)).train.n = 16) ∧
    ((blockWithTrain (trainOnesZeros 32)).train.n ≤ 128 ∧ (blockWithTrain (trainOnesZeros 32)).train.n = 128) := by decide +kernel

/-- A final pulse of duration zero with and without `add_last_pulse`, a final pulse that is not zero, and a first pulse at either level for
a definition and an inverted one. -/
theorem witness_CursorStartAndEnd :
    (p1a0.addLastPulse = false ∧ ((⟨16, bufferOf []⟩ : Train).pulse 15).dur = 0) ∧
    (p1a1.addLastPulse = true ∨ ((⟨16, bufferOf []⟩ : Train).pulse 15).dur ≠ 0) ∧
    ((⟨128, (blockWithTrain (trainOnesZeros 32)).pulses⟩ : Train).pulse 127).dur ≠ 0 ∧
    ((⟨18, bufferOf trainS⟩ : Train).pulse 0).lvl = (!p1a0.inverted) ∧ ((⟨18, bufferOf trainS⟩ : Train).pulse 0).lvl = f7.inverted ∧
    ((⟨18, bufferOf trainV10⟩ : Train).pulse 0).lvl = (!f7.inverted) ∧
    ((⟨18, bufferOf trainV10⟩ : Train).pulse 0).lvl = p1a0.inverted := by decide +kernel

/-- The pattern of the source's scenario, with the sync: 18 pulses. -/
def scenarioBits : List Bool := [false, false, false, false, true, true, true, true]

/-- The scenario with the sync; eight ones without it, 16 pulses; and 64 ones, whose train has 128. -/
theorem witness_ExactTrainDecodes :
    p1a1.family = 0 ∧ 0 < p1a1.tol.toNat ∧ DurationsMeasurable p1a1 ∧ (∀ widen, acceptsExact p1a1 p1a1.one p1a1.zero widen = false) ∧
    (∀ b, (List.replicate 8 true).head? = some b → acceptsExact p1a1 (symbolRatio p1a1 b) p1a1.sync true = false) ∧
    16 ≤ (exactTrain p1a1 true scenarioBits).length ∧ (exactTrain p1a1 true scenarioBits).length ≤ 128 ∧
    16 ≤ (exactTrain p1a1 false (List.replicate 8 true)).length ∧ (exactTrain p1a1 false (List.replicate 64 true)).length ≤ 128 ∧
    (blockWithTrain (exactTrain p1a1 true scenarioBits)).HoldsTrain (exactTrain p1a1 true scenarioBits) ∧
    (blockWithTrain (exactTrain p1a1 false (List.replicate 8 true))).HoldsTrain (exactTrain p1a1 false (List.replicate 8 true)) := by
  unfold DurationsMeasurable Block.HoldsTrain
  decide +kernel

/-- Two blocks that differ in the first slot above PCOUNT, in the last slot and in the level of P(1). -/
def blockOther : Block :=
  { blockWithTrain trainS with pulses := (((bufferOf trainS).set 18 ⟨1, true⟩).set 127 ⟨2, true⟩).set 1 ⟨10850, true⟩ }

theorem witness_DecodeReadsOnlyTheDeclaredPulses :
    (blockWithTrain trainS).pcount = blockOther.pcount ∧
    (∀ i : Fin 128, i.val < (blockWithTrain trainS).pcount.toNat → (blockWithTrain trainS).pulses[i].dur = blockOther.pulses[i].dur) ∧
    (blockWithTrain trainS).pulses[0].lvl = blockOther.pulses[0].lvl ∧
    (blockWithTrain trainS).pulses[18].dur ≠ blockOther.pulses[18].dur := by decide +kernel

/-- V1 matches, so the clauses about a match of DECODE and of EVENT are not empty: 6 bits (V12), 64 bits (V9). -/
theorem witness_DecodeResultBounds :
    (after (exec .decode (machine (blockWithTrain (⟨5000, false⟩ :: pulsesFrom true [350, 10850, 1050, 350, 350, 1050, 1050, 350, 350, 1050,
      1050, 350, 350, 1050, 350])) [p1a1] []))).map resultOf = some (true, 1, 6, 42) ∧
    (after (exec .event (machine (blockWithTrain (trainOnesZeros 32)) [p1a1] []))).map resultOf = some (true, 1, 64, 0xAAAAAAAAAAAAAAAA) := by
  decide +kernel

/-- X13's state matches. -/
theorem witness_AppendedDefinitionsKeepMatches :
    (after (exec .decode (machine blockX13 [p1a1] []))).map (fun t => t.block.matchFlag) = some true := by decide +kernel

/-- A legal tolerance at its bound, a measured duration below, at and above the expected one. -/
theorem witness_MatcherArithmeticFits :
    (100 : BitVec 8).toNat ≤ 100 ∧ expectedDuration 1 350 ≤ (350 : BitVec 15).toNat ∧ (349 : BitVec 15).toNat < expectedDuration 1 350 := by
  decide

/-- The last entry holds the value, at age 1000 and at age 1001. -/
theorem witness_KnownValueIsClassifiedByItsAge :
    ∀ t ∈ ([6000999, 6001000] : List Nat),
      (blockWithQuery (List.replicate 19 ⟨5000, 24, 1⟩ ++ [⟨5000, 24, 7⟩]) t 24 7).log[(19 : Fin 20)].val = 7 ∧
      (∀ j : Fin 20, j < 19 → (blockWithQuery (List.replicate 19 ⟨5000, 24, 1⟩ ++ [⟨5000, 24, 7⟩]) t 24 7).log[j].val ≠ 7) := by
  decide +kernel

/-- The last entry is the first stale one: ages 1000 and 1001. -/
theorem witness_NewValueClaimsTheFirstStaleEntry :
    (∀ j : Fin 20, (logOf (List.replicate 19 ⟨5000, 24, 1⟩ ++ [⟨4999, 24, 2⟩]))[j].val ≠ 7) ∧
    1000 < ((6000000 / 1000 : Nat) : Int) - ((logOf (List.replicate 19 ⟨5000, 24, 1⟩ ++ [⟨4999, 24, 2⟩]))[(19 : Fin 20)].last.toNat : Int) ∧
    (∀ j : Fin 20, j < 19 →
      ((6000000 / 1000 : Nat) : Int) - ((logOf (List.replicate 19 ⟨5000, 24, 1⟩ ++ [⟨4999, 24, 2⟩]))[j].last.toNat : Int) ≤ 1000) := by
  decide +kernel

/-- Twenty entries of one time, at age 999 and then 1000. -/
theorem witness_SaturatedLogRecordsNothing :
    (∀ j : Fin 20, (logOf (List.replicate 20 ⟨5000, 24, 1⟩))[j].val ≠ 7) ∧
    (∀ j : Fin 20, ((5999000 / 1000 : Nat) : Int) - ((logOf (List.replicate 20 ⟨5000, 24, 1⟩))[j].last.toNat : Int) ≤ 1000) ∧
    (∀ j : Fin 20, ((6000999 / 1000 : Nat) : Int) - ((logOf (List.replicate 20 ⟨5000, 24, 1⟩))[j].last.toNat : Int) ≤ 1000) := by
  decide +kernel

/-- A CHKDUP that records its value. -/
theorem witness_DuplicateWindowSlides :
    (after (exec .chkdup (machine (blockWithQuery [] 5000000 24 7) [] []))).map (fun t => t.block.log[(0 : Fin 20)].val) = some 7 := by
  decide +kernel

/-- W5: the last microsecond before a value is recorded. -/
theorem witness_FirstSecondRecordsNothing :
    (∀ j : Fin 20, (blockWithQuery [] 1000999 24 5).log[j].last = 0) ∧ (blockWithQuery [] 1000999 24 5).time.toNat < 1001000 ∧
    (∀ j : Fin 20, (blockWithQuery [] 1000999 24 5).log[j].val ≠ (blockWithQuery [] 1000999 24 5).argVal) := by decide +kernel

theorem witness_ValueZeroMatchesTheResetLog :
    (∀ j : Fin 20, (blockWithQuery [] 500000 12 0).log[j] = ⟨0, 0, 0⟩) ∧ (blockWithQuery [] 500000 12 0).argVal = 0 := by decide +kernel

/-- W7's log beside one that differs in the bit counts. -/
theorem witness_FilterIgnoresBitCounts :
    (blockWithQuery [⟨5000, 24, 5⟩] 5100000 12 5).time = (blockWithQuery [⟨5000, 1, 5⟩] 5100000 64 5).time ∧
    (blockWithQuery [⟨5000, 24, 5⟩] 5100000 12 5).argVal = (blockWithQuery [⟨5000, 1, 5⟩] 5100000 64 5).argVal ∧
    (∀ j : Fin 20, (logOf [⟨5000, 24, 5⟩])[j].last = (logOf [⟨5000, 1, 5⟩])[j].last ∧
      (logOf [⟨5000, 24, 5⟩])[j].val = (logOf [⟨5000, 1, 5⟩])[j].val) := by decide +kernel

/-- W9: TIME one millisecond before the stored time, for the value that is held and for another. -/
theorem witness_BackwardTimeIsNeverStale :
    ((logOf [⟨5000, 24, 0xABCDEF⟩])[(0 : Fin 20)].val = 0xABCDEF ∧ (∀ j : Fin 20, j < 0 → (logOf [⟨5000, 24, 0xABCDEF⟩])[j].val ≠ 0xABCDEF) ∧
      4999999 / 1000 < (logOf [⟨5000, 24, 0xABCDEF⟩])[(0 : Fin 20)].last.toNat) ∧
    ((logOf [⟨5000, 24, 0xABCDEF⟩])[(0 : Fin 20)].val ≠ 0x77) := by decide +kernel

/-- X14: too few pulses; and a train that no definition takes. -/
theorem witness_EventWithoutMatchLeavesTheFilter :
    ({ blockX13 with pcount := 10 } : Block).pcount.toNat < 16 ∧
    (∀ d ∈ [x3, f7], d.family ≠ 0 ∨ tryDefinition d blockX13.train = none) := by decide +kernel

/-- X13, behind a definition that is skipped. -/
theorem witness_EventOnMatchFiltersTheResult :
    16 ≤ blockX13.pcount.toNat ∧ blockX13.pcount.toNat ≤ 128 ∧
    (∀ e ∈ [x3], e.family ≠ 0 ∨ tryDefinition e blockX13.train = none) ∧ p1a1.family = 0 ∧
    tryDefinition p1a1 blockX13.train = some ⟨8, 15⟩ := by decide +kernel

/-- X13's DECODE matches. -/
theorem witness_EventIsDecodeThenChkdup :
    (after (exec .decode (machine blockX13 [p1a1] []))).map resultOf = some (true, 1, 8, 15) := by decide +kernel

/-- An EVENT that matches and claims LOG[0], so that the log entries other than the first are the untouched ones; and an EVENT that does not
match. -/
theorem witness_CommandsChangeOnlyTheirRow :
    (after (exec .event (machine blockX13 [p1a1] []))).map (fun t => t.block.matchFlag) = some true ∧
    ({ blockX13 with argVal := 15 } : Block).chkdupTarget = some 0 ∧
    (after (exec .event (machine { blockX13 with pcount := 10 } [p1a1] []))).map (fun t => t.block.matchFlag) = some false ∧
    (blockWithQuery [] 5000000 24 7).chkdupTarget = some 0 := by decide +kernel

/-- An illegal word; a RESET and a hardware reset; and an event that is neither. -/
theorem witness_CmdErrIsSticky :
    (0x00000004 : Word) ∉ ([0x00000000, 0x00000001, 0x00000002, 0x00000003, 0x0000000F] : List Word) ∧
    (scripted [.write 0 0x00000004]).script = [.write 0 0x00000004] ∧ (scripted [.hardReset]).script = [.hardReset] ∧
    (scripted [.write 0 0x0000000F]).script = [.write 0 0x0000000F] ∧ (scripted [.read 1]).script = [.read 1] :=
  ⟨by decide, rfl, rfl, rfl, rfl⟩

/-- An event that changes PCOUNT, one that changes the result and one that changes the log, none of them a reset. -/
theorem witness_StateChangesOnlyByTheListedEvents :
    (∀ e ∈ [HostEvent.write 2 18, HostEvent.write 0 0x1, HostEvent.write 0 0x2], e ≠ .hardReset ∧ e ≠ .write 0 0x0000000F) ∧
    (after (step (scripted [.write 2 18]))).map (fun t => t.block.pcount) = some 18 ∧
    (after (step (machine blockX13 [p1a1] [.write 0 0x1]))).map resultOf = some (true, 1, 8, 15) ∧
    (after (step (machine blockX13 [p1a1] [.write 0 0x2]))).map filterOf = some (false, (logOf [⟨5000, 3, 0x99⟩]).toList) := by
  decide +kernel

/-- The empty image and one of two entries make an instance; a registry of 128 entries is well formed; no registry has an image whose fourth
word is not 0. -/
theorem witness_InstancesAreTheWellFormedRegistries :
    State.ofRom [] = .ok { State.reset with registry := [] } ∧
    State.ofRom [definitionToRomSlot p1a1, definitionToRomSlot f7] = .ok { State.reset with registry := [p1a1, f7] } ∧
    registryWf (List.replicate 128 p1a1) = true ∧
    ∀ reg, registryWf reg = true → [⟨0x00190001, 0x1F01015E, 0x01030301, 1⟩] ≠ reg.map definitionToRomSlot := by
  refine ⟨rfl, rfl, by decide +kernel, fun reg _ h => ?_⟩
  cases reg with
  | nil => cases h
  | cons d ds => exact absurd (congrArg RomSlot.w3 (List.cons.inj h).1) (by simp [definitionToRomSlot])

theorem witness_EveryInstanceStartsInTheInvariant :
    State.ofRom [definitionToRomSlot p1a1, definitionToRomSlot f7] = .ok { State.reset with registry := [p1a1, f7] } := rfl

/-- The invariant holds of the state after X13, which is not the reset state. -/
theorem witness_StepKeepsTheInvariant :
    (machine { blockX13 with matchFlag := true, resId := 1, resBits := 8, resVal := 15, log := logOf [⟨5000, 8, 15⟩] } [p1a1] []).Inv where
  registry := by decide +kernel
  result := by unfold Block.ResultOk; decide +kernel
  distinct := by unfold Block.LogDistinct; decide +kernel
  times := by unfold Block.LogTimes; decide +kernel

end Sys2Proof.Tests
end

section
/-! CMDERR is sticky, and no command reads it (10_state.md R21). -/

namespace Sys2Proof

/-- The opcode a command is read from is the number of its whole word (30_encoding.md R51, R52). -/
theorem decodeOp_eq_ok (op : BitVec 8) (i : Instr) (h : decodeOp op = .ok i) : op.toNat = (encodeWord i).toNat := by
  unfold decodeOp at h
  split at h <;> cases h <;> assumption

/-- The command a word is read as has that word. -/
theorem decodeWord_eq_ok (w : Word) (i : Instr) (h : decodeWord w = .ok i) : w = encodeWord i := by
  unfold decodeWord at h
  split at h
  case isTrue hrsv =>
    have hop := decodeOp_eq_ok _ _ h
    have hzero : (rsvField w).toNat = 0 := by rw [hrsv]; rfl
    rw [opField_toNat] at hop
    rw [rsvField_toNat] at hzero
    exact BitVec.eq_of_toNat_eq (by omega)
  case isFalse => cases h

@[simp] theorem decodeWord_encodeWord (i : Instr) : decodeWord (encodeWord i) = .ok i := by
  cases i <;> rfl

/-- The command words of the opcode table (30_encoding.md R52). -/
abbrev commandWords : List Word := [0x00000000, 0x00000001, 0x00000002, 0x00000003, 0x0000000F]

/-- They are the words `encodeWord` gives. -/
theorem mem_commandWords_iff (w : Word) : w ∈ commandWords ↔ ∃ i, w = encodeWord i := by
  simp only [commandWords, List.mem_cons, List.not_mem_nil, or_false]
  constructor
  · rintro (rfl | rfl | rfl | rfl | rfl)
    · exact ⟨.nop, rfl⟩
    · exact ⟨.decode, rfl⟩
    · exact ⟨.chkdup, rfl⟩
    · exact ⟨.event, rfl⟩
    · exact ⟨.reset, rfl⟩
  · rintro ⟨i, rfl⟩
    cases i <;> simp [encodeWord]

theorem encodeWord_eq_reset_iff (i : Instr) : encodeWord i = 0x0000000F ↔ i = .reset := by
  cases i <;> simp [encodeWord]

end Sys2Proof

namespace Sys2Proof.Machine

-- No command reads CMDERR: each computation on the block commutes with overwriting that flag.

theorem setResult_cmdErr_comm (b : Block) (r : Option Decoded) (v : Bool) :
    ({ b with cmdErr := v } : Block).setResult r = { b.setResult r with cmdErr := v } := by
  cases r <;> rfl

theorem runDecode_cmdErr_comm (b : Block) (reg : List Definition) (v : Bool) :
    ({ b with cmdErr := v } : Block).runDecode reg = { b.runDecode reg with cmdErr := v } :=
  setResult_cmdErr_comm b (decodeTrain reg b.train) v

theorem runChkdup_cmdErr_comm (b : Block) (v : Bool) :
    ({ b with cmdErr := v } : Block).runChkdup = { b.runChkdup with cmdErr := v } := by
  simp only [Block.runChkdup, Block_signal_time, Block_signal_bits, Block_signal_val]
  cases firstEntry (holdsValue b.argVal) b.log with
  | some i => rfl
  | none => cases firstEntry (expired (nowMs b.time)) b.log <;> rfl

theorem runEvent_cmdErr_comm (b : Block) (reg : List Definition) (v : Bool) :
    ({ b with cmdErr := v } : Block).runEvent reg = { b.runEvent reg with cmdErr := v } := by
  simp only [Block.runEvent, runDecode_cmdErr_comm]
  split
  · exact runChkdup_cmdErr_comm (b.runDecode reg).argsFromResult v
  · rfl

theorem exec_decode (s : State) : exec .decode s = .next { s with block := s.block.runDecode s.registry } := rfl

theorem exec_chkdup (s : State) : exec .chkdup s = .next { s with block := s.block.runChkdup } := rfl

theorem exec_event (s : State) : exec .event s = .next { s with block := s.block.runEvent s.registry } := rfl

/-- The same command on a state that differs in CMDERR alone answers a state that differs in CMDERR alone; after RESET even that is equal. -/
theorem exec_cmdErr_comm (i : Instr) (s t : State) (v : Bool) (h : exec i s = .next t) :
    exec i { s with block := { s.block with cmdErr := v } }
      = .next { t with block := { t.block with cmdErr := if i = .reset then false else v } } := by
  cases i <;> cases h
  case nop => rfl
  case decode => simp [exec_decode, runDecode_cmdErr_comm]
  case chkdup => simp [exec_chkdup, runChkdup_cmdErr_comm]
  case event => simp [exec_event, runEvent_cmdErr_comm]
  case reset => rfl

-- What each event does to CMDERR.

/-- A command keeps CMDERR, RESET clears it: overwriting the flag with its own value is no change. -/
theorem exec_cmdErr (i : Instr) (s t : State) (h : exec i s = .next t) :
    t.block.cmdErr = if i = .reset then false else s.block.cmdErr := by
  have hself := exec_cmdErr_comm i s t s.block.cmdErr h
  have heq := Host.Outcome.next.inj (h.symm.trans hself)
  exact congrArg (fun u => u.block.cmdErr) heq

theorem issue_encodeWord (i : Instr) (s : State) : issue (encodeWord i) s = exec i s := by
  simp [issue]

theorem issue_illegal (w : Word) (s : State) (h : ¬ ∃ i, w = encodeWord i) : issue w s = .next s.illegalCommand := by
  unfold issue
  cases hw : decodeWord w with
  | ok i => exact absurd ⟨i, decodeWord_eq_ok w i hw⟩ h
  | error _ => rfl

theorem perform_write_zero (v : Word) (s : State) : perform (.write 0 v) s = issue v s :=
  perform_write_cmd v s

theorem writeWord_cmdErr (b : Block) (a : BusAddr) (v : Word) : (writeWord b a v).cmdErr = b.cmdErr := by
  obtain ⟨_, _, _, _, _, h⟩ := writeWord_frame b a v
  rw [h]

/-- A write to CMD: RESET clears CMDERR, the other commands keep it, an illegal word sets it. -/
theorem issue_cmdErr (w : Word) (s : State) : ∃ t, issue w s = .next t ∧
    t.block.cmdErr =
      if w ∈ commandWords then if w = 0x0000000F then false else s.block.cmdErr else true := by
  by_cases hw : ∃ i, w = encodeWord i
  · rw [if_pos ((mem_commandWords_iff w).mpr hw)]
    obtain ⟨i, rfl⟩ := hw
    obtain ⟨b, hb⟩ := exec_next i s
    refine ⟨_, (issue_encodeWord i s).trans hb, ?_⟩
    simp only [encodeWord_eq_reset_iff]
    exact exec_cmdErr i s _ hb
  · rw [if_neg (mt (mem_commandWords_iff w).mp hw)]
    exact ⟨_, issue_illegal w s hw, rfl⟩

/-- One step: an illegal word sets CMDERR, RESET and a hardware reset clear it, everything else keeps it. -/
theorem step_cmdErr (s : State) : ∃ t, step s = .next t ∧
    ((∃ w rest, s.script = .write 0 w :: rest ∧ w ∉ commandWords) → t.block.cmdErr = true) ∧
    ((∃ rest, s.script = .hardReset :: rest ∨ s.script = .write 0 0x0000000F :: rest) → t.block.cmdErr = false) ∧
    ((¬ ∃ w rest, s.script = .write 0 w :: rest ∧ w ∉ commandWords) →
      (¬ ∃ rest, s.script = .hardReset :: rest ∨ s.script = .write 0 0x0000000F :: rest) →
      t.block.cmdErr = s.block.cmdErr) := by
  cases hs : s.script with
  | nil => exact ⟨s, step_idle s hs, by simp⟩
  | cons e rest =>
    rw [step_event s e rest hs]
    cases e with
    | read a => exact ⟨_, perform_read a _, by simp⟩
    | hardReset => exact ⟨_, perform_hardReset _, by simp⟩
    | write a v =>
      by_cases ha : a = 0#10
      · subst ha
        obtain ⟨t, ht, hflag⟩ := issue_cmdErr v { s with script := rest }
        refine ⟨t, (perform_write_zero v _).trans ht, ?_, ?_, ?_⟩
        · rintro ⟨w, _, ⟨⟩, hw⟩
          rw [hflag, if_neg hw]
        · rintro ⟨_, ⟨⟨⟩⟩ | ⟨⟨⟩⟩⟩
          rw [hflag, if_pos (by simp), if_pos rfl]
        · intro hlegal hreset
          have hv : v ∈ commandWords := not_not.mp fun hv => hlegal ⟨v, rest, rfl, hv⟩
          have hne : v ≠ 0x0000000F := fun h => hreset ⟨rest, .inr (h ▸ rfl)⟩
          rw [hflag, if_pos hv, if_neg hne]
      · exact ⟨_, perform_write_other a v _ ha, by simp [ha, writeWord_cmdErr]⟩

/-- Settles O51: the step's effect on CMDERR event by event, and CMDERR commuting with every command. -/
theorem cmdErrIsSticky : Obligations.CmdErrIsSticky := by
  unfold Obligations.CmdErrIsSticky
  refine ⟨step_cmdErr, fun i s v => ?_⟩
  obtain ⟨b, hb⟩ := exec_next i s
  exact ⟨_, hb, exec_cmdErr_comm i s _ v hb⟩

end Sys2Proof.Machine
end

section
/-! The register window read and written by name: the address map in both directions, the number each word reads as, and the
words that store nothing (20_memory.md R35, R36, R42). -/

namespace Sys2Proof

-- The address map

theorem regOffset_lt (r : Reg) : regOffset r < 4096 := by
  cases r <;> simp only [regOffset] <;> omega

theorem four_dvd_regOffset (r : Reg) : 4 ∣ regOffset r := by
  cases r <;> simp only [regOffset] <;> omega

/-- The word address of a name, times four, is its byte offset (20_memory.md R34). -/
theorem four_mul_regAddr (r : Reg) : 4 * (regAddr r).toNat = regOffset r := by
  have hlt := regOffset_lt r
  have hdvd := four_dvd_regOffset r
  rw [regAddr, BitVec.toNat_ofNat, Nat.mod_eq_of_lt (by omega), Nat.mul_div_cancel' hdvd]

/-- The words of the PULSE range. -/
theorem locate_pulse (a : BusAddr) (w : Fin 64) (h : 4 * a.toNat = 0x100 + 4 * w) : locate a = some (.pulse w) := by
  have hw : a.toNat - 0x40 = w := by omega
  unfold locate
  rw [if_neg (by omega), dif_pos (by omega)]
  simp only [hw]

/-- The eight words of a log slot. -/
theorem locate_log (a : BusAddr) (i : Fin 20) (j : Nat) (hj : j < 8) (h : 4 * a.toNat = 0x400 + 32 * i + 4 * j) :
    locate a = locateLog i j := by
  have hslot : (a.toNat - 0x100) / 8 = i := by omega
  have hword : (a.toNat - 0x100) % 8 = j := by omega
  unfold locate
  rw [if_neg (by omega), dif_neg (by omega), if_neg (by omega), dif_pos (by omega)]
  simp only [hslot, hword]

/-- The four words of a registry slot. -/
theorem locate_registry (a : BusAddr) (k : Fin 128) (j : Nat) (hj : j < 4) (h : 4 * a.toNat = 0x800 + 16 * k + 4 * j) :
    locate a = locateRegistry k j := by
  have hslot : (a.toNat - 0x200) / 4 = k := by omega
  have hword : (a.toNat - 0x200) % 4 = j := by omega
  unfold locate
  rw [if_neg (by omega), dif_neg (by omega), if_neg (by omega), dif_neg (by omega), if_neg (by omega)]
  simp only [hslot, hword]

/-- The address decoder finds every named word at its address. -/
@[simp] theorem locate_regAddr (r : Reg) : locate (regAddr r) = some r := by
  have hoffset := four_mul_regAddr r
  cases r with
  | pulse w => exact locate_pulse _ w hoffset
  | logLastLo i => exact locate_log _ i 0 (by omega) hoffset
  | logLastHi i => exact locate_log _ i 1 (by omega) hoffset
  | logValLo i => exact locate_log _ i 2 (by omega) hoffset
  | logValHi i => exact locate_log _ i 3 (by omega) hoffset
  | logBits i => exact locate_log _ i 4 (by omega) hoffset
  | regW0 k => exact locate_registry _ k 0 (by omega) hoffset
  | regW1 k => exact locate_registry _ k 1 (by omega) hoffset
  | regW2 k => exact locate_registry _ k 2 (by omega) hoffset
  | _ => rfl

theorem regOffset_of_locateScalar (n : Nat) (r : Reg) (h : locateScalar n = some r) : regOffset r = 4 * n := by
  unfold locateScalar at h
  split at h <;> cases h <;> rfl

theorem regOffset_of_locateLog (i : Fin 20) (j : Nat) (r : Reg) (h : locateLog i j = some r) :
    regOffset r = 0x400 + 32 * i + 4 * j := by
  unfold locateLog at h
  split at h <;> cases h <;> rfl

theorem regOffset_of_locateRegistry (k : Fin 128) (j : Nat) (r : Reg) (h : locateRegistry k j = some r) :
    regOffset r = 0x800 + 16 * k + 4 * j := by
  unfold locateRegistry at h
  split at h <;> cases h <;> rfl

/-- A word the address decoder names stands at the offset of that name. -/
theorem regOffset_of_locate (a : BusAddr) (r : Reg) (h : locate a = some r) : regOffset r = 4 * a.toNat := by
  unfold locate at h
  split at h
  · exact regOffset_of_locateScalar _ r h
  split at h
  · cases h
    simp only [regOffset]
    omega
  split at h
  · cases h
  split at h
  · have := regOffset_of_locateLog _ _ r h
    dsimp only at this
    omega
  split at h
  · cases h
  · have := regOffset_of_locateRegistry _ _ r h
    dsimp only at this
    omega

-- The numbers of the words (30_encoding.md R55 to R60)

namespace Machine

theorem ofBool_toNat (b : Bool) : (BitVec.ofBool b).toNat = flagValue b := by
  cases b <;> rfl

theorem statusWord_toNat (b : Block) :
    b.statusWord.toNat = flagValue b.matchFlag + 2 * flagValue b.dupFlag + 4 * flagValue b.cmdErr := by
  simp only [Block.statusWord, append_toNat, ofBool_toNat, BitVec.ofNat_eq_ofNat, BitVec.toNat_ofNat]
  omega

theorem pulseToHalf_toNat (p : Pulse) : (pulseToHalf p).toNat = pulseValue p := by
  simp only [pulseToHalf, append_toNat, ofBool_toNat, pulseValue]
  omega

theorem pulsesToWord_toNat (even odd : Pulse) :
    (pulsesToWord even odd).toNat = pulseValue even + 2 ^ 16 * pulseValue odd := by
  simp only [pulsesToWord, append_toNat, pulseToHalf_toNat]
  omega

theorem definitionWord0_toNat (d : Definition) :
    (definitionWord0 d).toNat = d.id.toNat + 2 ^ 8 * d.family.toNat + 2 ^ 16 * d.tol.toNat
      + 2 ^ 24 * flagValue d.inverted + 2 ^ 25 * flagValue d.addLastPulse := by
  simp only [definitionWord0, append_toNat, ofBool_toNat, BitVec.ofNat_eq_ofNat, BitVec.toNat_ofNat]
  omega

theorem definitionWord1_toNat (d : Definition) :
    (definitionWord1 d).toNat = d.base.toNat + 2 ^ 16 * d.sync.high.toNat + 2 ^ 24 * d.sync.low.toNat := by
  simp only [definitionWord1, append_toNat]
  omega

theorem definitionWord2_toNat (d : Definition) :
    (definitionWord2 d).toNat = d.zero.high.toNat + 2 ^ 8 * d.zero.low.toNat
      + 2 ^ 16 * d.one.high.toNat + 2 ^ 24 * d.one.low.toNat := by
  simp only [definitionWord2, append_toNat]
  omega

/-- A registry word as a number, for any layout `f` of number `n`: 0 on both sides above NPROTO. -/
theorem registryWord_toNat (reg : List Definition) (k : Fin 128) (f : Definition → Word) (n : Definition → Nat)
    (h : ∀ d, (f d).toNat = n d) : (registryWord reg k f).toNat = entryValue reg k n := by
  unfold registryWord entryValue
  cases reg[k.val]? with
  | none => rfl
  | some d => exact h d

theorem registryWord_above (reg : List Definition) (k : Fin 128) (f : Definition → Word) (h : reg.length ≤ k) :
    registryWord reg k f = 0 := by
  unfold registryWord
  rw [List.getElem?_eq_none h]

/-- Every named word reads as the number its layout gives it. The bound on the registry is what lets NPROTO fit its eight bits. -/
theorem readReg_toNat (s : State) (r : Reg) (hlen : s.registry.length ≤ 128) :
    (readReg s.registry s.block r).toNat = mappedValue s r := by
  cases r with
  | cmd => rfl
  | status => exact statusWord_toNat s.block
  | nproto =>
    simp only [readReg, mappedValue, BitVec.toNat_setWidth_of_le (show 8 ≤ 32 by omega), BitVec.toNat_ofNat]
    omega
  | pcount | argBits | resId | resBits | logBits i => exact BitVec.toNat_setWidth_of_le (by omega)
  | timeLo | argValLo | resValLo | logLastLo i | logValLo i => exact loHalf_toNat _
  | timeHi | argValHi | resValHi | logLastHi i | logValHi i => exact hiHalf_toNat _
  | pulse w => exact pulsesToWord_toNat _ _
  | regW0 k => exact registryWord_toNat _ k _ _ definitionWord0_toNat
  | regW1 k => exact registryWord_toNat _ k _ _ definitionWord1_toNat
  | regW2 k => exact registryWord_toNat _ k _ _ definitionWord2_toNat

-- Reads

/-- A step whose event is a read returns the word of the map and changes nothing else (20_memory.md R36). -/
theorem step_read (s : State) (a : BusAddr) (rest : List HostEvent) (h : s.script = .read a :: rest) :
    step s = .next { s with script := rest, returned := s.returned ++ [readWord s.registry s.block a] } := by
  rw [step_event s _ rest h, perform_read]
  rfl

theorem readWord_of_locate (reg : List Definition) (b : Block) (a : BusAddr) (r : Reg) (h : locate a = some r) :
    readWord reg b a = readReg reg b r := by
  unfold readWord
  rw [h]

/-- No named word is reserved (20_memory.md R35). -/
theorem not_reservedWord_of_locate (a : BusAddr) (r : Reg) (h : locate a = some r) : ¬ ReservedWord a.toNat := by
  have hoffset := regOffset_of_locate a r h
  unfold ReservedWord
  cases r <;> simp only [regOffset] at hoffset <;> omega

theorem locate_reservedWord (a : BusAddr) (h : ReservedWord a.toNat) : locate a = none := by
  cases hr : locate a with
  | none => rfl
  | some r => exact absurd h (not_reservedWord_of_locate a r hr)

theorem readWord_reservedWord (reg : List Definition) (b : Block) (a : BusAddr) (h : ReservedWord a.toNat) :
    readWord reg b a = 0 := by
  unfold readWord
  rw [locate_reservedWord a h]

/-- From the slot of entry NPROTO on, the only named words are those of registry slots `k ≥ NPROTO` (20_memory.md R42). -/
theorem readReg_above_nproto (reg : List Definition) (b : Block) (r : Reg) (h : 0x800 + 16 * reg.length ≤ regOffset r) :
    readReg reg b r = 0 := by
  cases r with
  | regW0 k | regW1 k | regW2 k =>
    simp only [regOffset] at h
    exact registryWord_above reg k _ (by omega)
  | _ =>
    simp only [regOffset] at h
    omega

theorem readWord_above_nproto (reg : List Definition) (b : Block) (a : BusAddr) (h : 512 + 4 * reg.length ≤ a.toNat) :
    readWord reg b a = 0 := by
  unfold readWord
  cases hr : locate a with
  | none => rfl
  | some r =>
    have := regOffset_of_locate a r hr
    exact readReg_above_nproto reg b r (by omega)

theorem readWord_cmd (reg : List Definition) (b : Block) : readWord reg b 0 = 0 := rfl

-- Writes

/-- The storing words are exactly the named words with access RW (20_memory.md R35). -/
theorem storingWord_iff_readWrite (a : BusAddr) (r : Reg) (h : locate a = some r) :
    StoringWord a.toNat ↔ regAccess r = .readWrite := by
  have hoffset := regOffset_of_locate a r h
  unfold StoringWord
  cases r <;> simp only [regOffset, regAccess, reduceCtorEq, iff_true, iff_false] at hoffset ⊢ <;> omega

theorem writeReg_of_not_readWrite (b : Block) (r : Reg) (v : Word) (h : regAccess r ≠ .readWrite) : writeReg b r v = b := by
  cases r with
  | pcount | timeLo | timeHi | argBits | argValLo | argValHi | pulse w => exact absurd rfl h
  | _ => rfl

theorem writeWord_of_not_storingWord (b : Block) (a : BusAddr) (v : Word) (h : ¬ StoringWord a.toNat) : writeWord b a v = b := by
  unfold writeWord
  cases hr : locate a with
  | none => rfl
  | some r => exact writeReg_of_not_readWrite b r v (mt (storingWord_iff_readWrite a r hr).mpr h)

/-- A step whose event is a write to a word other than CMD stores the word in the block and does nothing else (20_memory.md R37). -/
theorem step_write_other (s : State) (a : BusAddr) (v : Word) (rest : List HostEvent) (ha : a ≠ 0)
    (h : s.script = .write a v :: rest) :
    step s = .next { s with script := rest, block := writeWord s.block a v } := by
  rw [step_event s _ rest h, perform_write_other a v _ ha]

/-- Settles O11: the address map finds the named word, whose number is the layout's; a reserved word has no name. -/
theorem readReturnsTheMappedWord : Obligations.ReadReturnsTheMappedWord := by
  unfold Obligations.ReadReturnsTheMappedWord
  constructor
  · intro s r rest hlen hs
    have hword : readWord s.registry s.block (regAddr r) = BitVec.ofNat 32 (mappedValue s r) := by
      rw [readWord_of_locate _ _ _ r (locate_regAddr r), ← readReg_toNat s r hlen, BitVec.ofNat_toNat, BitVec.setWidth_eq]
    rw [step_read s _ rest hs, hword]
  · intro s a rest ha hs
    rw [step_read s a rest hs, readWord_reservedWord _ _ a ha]

/-- Settles O12: a word that is not RW keeps the block, the three kinds of words read as 0, and every step answers a next state. -/
theorem readOnlyAndReservedWords : Obligations.ReadOnlyAndReservedWords := by
  unfold Obligations.ReadOnlyAndReservedWords
  refine ⟨?_, ?_, ?_⟩
  · intro s a v rest ha hstore hs
    rw [step_write_other s a v rest ha hs, writeWord_of_not_storingWord _ a v hstore]
  · intro s a rest ha hs
    have hzero : readWord s.registry s.block a = 0 := by
      obtain hres | habove | rfl := ha
      · exact readWord_reservedWord _ _ a hres
      · exact readWord_above_nproto _ _ a habove
      · exact readWord_cmd _ _
    rw [step_read s a rest hs, hzero]
  · intro s _ _ _ _
    obtain ⟨t, ht, -, -⟩ := step_next s
    exact ⟨t, ht⟩

end Machine

end Sys2Proof
end

section
/-! The command word read from its table, the words outside the table, and the layout of STATUS (30_encoding.md R52, R54, R60). -/

namespace Sys2Proof

/-- A word is read as a command exactly when it is that command's word. -/
theorem decodeWord_eq_ok_iff (w : Word) (i : Instr) : decodeWord w = .ok i ↔ w = encodeWord i := by
  constructor
  · exact decodeWord_eq_ok w i
  · rintro rfl
    exact decodeWord_encodeWord i

/-- The opcode table, row by row. -/
theorem eq_encodeWord_iff_table (w : Word) (i : Instr) : w = encodeWord i ↔
    (w = 0x00000000 ∧ i = .nop) ∨ (w = 0x00000001 ∧ i = .decode) ∨ (w = 0x00000002 ∧ i = .chkdup) ∨
    (w = 0x00000003 ∧ i = .event) ∨ (w = 0x0000000F ∧ i = .reset) := by
  cases i <;> simp [encodeWord]

/-- Settles O1: the words that decode are those `encodeWord` gives, and these are the rows of the table. -/
theorem commandWordsAreExactlyTheTable : Obligations.CommandWordsAreExactlyTheTable := by
  unfold Obligations.CommandWordsAreExactlyTheTable
  intro w i
  exact (decodeWord_eq_ok_iff w i).trans (eq_encodeWord_iff_table w i)

namespace Machine

/-- A step whose event writes a word outside the table to CMD takes the event and raises CMDERR (30_encoding.md R54). -/
theorem step_write_illegal (s : State) (w : Word) (rest : List HostEvent) (h : s.script = .write 0 w :: rest)
    (hw : w ∉ commandWords) : step s = .next { s with script := rest }.illegalCommand := by
  rw [step_event s _ rest h, perform_write_zero, issue_illegal w _ (mt (mem_commandWords_iff w).mpr hw)]

/-- Settles O10: a word that differs from all five is outside the table, and the illegal command changes CMDERR alone. -/
theorem illegalCommandOnlyRaisesCmdErr : Obligations.IllegalCommandOnlyRaisesCmdErr := by
  unfold Obligations.IllegalCommandOnlyRaisesCmdErr
  intro s w rest hs hnop hdecode hchkdup hevent hreset
  have hw : w ∉ commandWords := by
    simp only [commandWords, List.mem_cons, List.not_mem_nil, or_false, not_or]
    exact ⟨hnop, hdecode, hchkdup, hevent, hreset⟩
  exact step_write_illegal s w rest hs hw

theorem flagValue_le_one (v : Bool) : flagValue v ≤ 1 := by
  cases v <;> decide

theorem statusWord_toNat_le (b : Block) : b.statusWord.toNat ≤ 7 := by
  have hmatch := flagValue_le_one b.matchFlag
  have hdup := flagValue_le_one b.dupFlag
  have herr := flagValue_le_one b.cmdErr
  rw [statusWord_toNat]
  omega

-- STATUS is the reserved bits with the flags appended below them one at a time, MATCH last.

theorem statusWord_eq_concat (b : Block) :
    b.statusWord = (((0 : BitVec 29).concat b.cmdErr).concat b.dupFlag).concat b.matchFlag := rfl

theorem statusWord_bit_match (b : Block) : b.statusWord.getLsbD 0 = b.matchFlag := by
  rw [statusWord_eq_concat, BitVec.getLsbD_concat_zero]

theorem statusWord_bit_dup (b : Block) : b.statusWord.getLsbD 1 = b.dupFlag := by
  rw [statusWord_eq_concat, BitVec.getLsbD_concat_succ, BitVec.getLsbD_concat_zero]

theorem statusWord_bit_cmdErr (b : Block) : b.statusWord.getLsbD 2 = b.cmdErr := by
  rw [statusWord_eq_concat, BitVec.getLsbD_concat_succ, BitVec.getLsbD_concat_succ, BitVec.getLsbD_concat_zero]

/-- Settles O8: the three flags bit by bit, and the word's number for the bits above them. -/
theorem statusWordLayout : Obligations.StatusWordLayout := by
  unfold Obligations.StatusWordLayout
  intro b
  exact ⟨statusWord_bit_match b, statusWord_bit_dup b, statusWord_bit_cmdErr b, statusWord_toNat_le b⟩

end Machine

end Sys2Proof
end

section
/-! The arithmetic of the matcher: the difference as an absolute value, the tolerance test over the rationals, and the bounds of
every intermediate value (40_matcher.md R67 to R69, R72). -/

namespace Sys2Proof.Machine

@[simp] theorem effectiveTolerance_widened (tol : BitVec 8) : effectiveTolerance tol true = tol.toNat * 2 := rfl

@[simp] theorem effectiveTolerance_plain (tol : BitVec 8) : effectiveTolerance tol false = tol.toNat := rfl

/-- Settles O32: the two equations of the effective tolerance. -/
theorem effectiveToleranceDoubles : Obligations.EffectiveToleranceDoubles := by
  unfold Obligations.EffectiveToleranceDoubles
  exact fun tol => ⟨effectiveTolerance_widened tol, effectiveTolerance_plain tol⟩

theorem absDiff_of_le (m e : Nat) (h : e ≤ m) : absDiff m e = m - e := if_pos h

theorem absDiff_of_lt (m e : Nat) (h : m < e) : absDiff m e = e - m := if_neg (Nat.not_le.mpr h)

theorem absDiff_le_max (m e : Nat) : absDiff m e ≤ max m e := by
  obtain h | h := le_or_gt e m
  · rw [absDiff_of_le m e h]
    omega
  · rw [absDiff_of_lt m e h]
    omega

/-- In every ordered ring the difference of two naturals is the absolute value of the ring's own difference. -/
theorem cast_absDiff {R : Type*} [Ring R] [LinearOrder R] [IsStrictOrderedRing R] (m e : Nat) :
    (absDiff m e : R) = |(m : R) - (e : R)| := by
  obtain h | h := le_or_gt e m
  · rw [absDiff_of_le m e h, Nat.cast_sub h, abs_of_nonneg (sub_nonneg.mpr (Nat.cast_le.mpr h))]
  · rw [absDiff_of_lt m e h, Nat.cast_sub h.le, abs_sub_comm, abs_of_nonneg (sub_nonneg.mpr (Nat.cast_le.mpr h.le))]

theorem cast_effectiveTolerance (tol : BitVec 8) (widen : Bool) :
    (effectiveTolerance tol widen : ℚ) = if widen then 2 * (tol.toNat : ℚ) else (tol.toNat : ℚ) := by
  cases widen with
  | true => rw [effectiveTolerance_widened, Nat.cast_mul, Nat.cast_ofNat, mul_comm, if_pos rfl]
  | false => rw [effectiveTolerance_plain, if_neg Bool.false_ne_true]

/-- Settles O33: multiplying the fraction by 100 gives the comparison of naturals, with no rounding in between. -/
theorem toleranceIsTheExactFraction : Obligations.ToleranceIsTheExactFraction := by
  unfold Obligations.ToleranceIsTheExactFraction
  intro m e tol widen
  rw [← cast_absDiff, ← cast_effectiveTolerance, lt_div_iff₀ (by norm_num), inTolerance_eq_true]
  exact_mod_cast Iff.rfl

/-- The largest ratio component times the largest base unit. -/
theorem expectedDuration_le (r : BitVec 8) (u : BitVec 16) : expectedDuration r u ≤ 255 * 65535 :=
  Nat.mul_le_mul (Nat.le_of_lt_succ r.isLt) (Nat.le_of_lt_succ u.isLt)

/-- A measured duration never exceeds the largest expected one, so the difference has the same bound. -/
theorem absDiff_expectedDuration_le (m : BitVec 15) (r : BitVec 8) (u : BitVec 16) :
    absDiff m.toNat (expectedDuration r u) ≤ 255 * 65535 := by
  have hdiff := absDiff_le_max m.toNat (expectedDuration r u)
  have hexpected := expectedDuration_le r u
  omega

theorem effectiveTolerance_le_double (tol : BitVec 8) (widen : Bool) : effectiveTolerance tol widen ≤ tol.toNat * 2 := by
  cases widen with
  | true => rw [effectiveTolerance_widened]
  | false =>
    rw [effectiveTolerance_plain]
    omega

theorem effectiveTolerance_le (tol : BitVec 8) (widen : Bool) : effectiveTolerance tol widen ≤ 510 := by
  have hdouble := effectiveTolerance_le_double tol widen
  omega

theorem expectedDuration_mul_effectiveTolerance_le (r tol : BitVec 8) (u : BitVec 16) (widen : Bool) :
    expectedDuration r u * effectiveTolerance tol widen ≤ 255 * 65535 * 510 :=
  Nat.mul_le_mul (expectedDuration_le r u) (effectiveTolerance_le tol widen)

/-- Settles O36: the bound of each intermediate value, and the two cases of the difference. -/
theorem matcherArithmeticFits : Obligations.MatcherArithmeticFits := by
  unfold Obligations.MatcherArithmeticFits
  intro m r tol u widen
  have hexpected := expectedDuration_le r u
  have hdiff := absDiff_expectedDuration_le m r u
  have hdouble := effectiveTolerance_le_double tol widen
  have hproduct := expectedDuration_mul_effectiveTolerance_le r tol u widen
  exact ⟨by omega, by omega, by omega, effectiveTolerance_le tol widen, fun htol => by omega, by omega,
    absDiff_of_le _ _, absDiff_of_lt _ _⟩

end Sys2Proof.Machine
end

section
/-! What DECODE answers, entry by entry of the registry: nothing when every entry is passed over, else the first entry that
matches (41_decoder.md R75, R76, R87, R90). -/

namespace Sys2Proof.Machine

/-- An entry is passed over when it is skipped or when TRY fails on it. -/
theorem attempt_eq_none_iff (t : Train) (d : Definition) :
    attempt t d = none ↔ d.family ≠ Config.familyPwm ∨ tryDefinition d t = none := by
  unfold attempt
  split
  next hfam => simp only [Option.map_eq_none_iff, ne_eq, hfam, not_true_eq_false, false_or]
  next hfam => exact iff_of_true rfl (.inl hfam)

/-- The three ways to the empty result, and there are no others (41_decoder.md R90). -/
theorem decodeTrain_eq_none_iff (reg : List Definition) (t : Train) :
    decodeTrain reg t = none ↔
      t.n < 16 ∨ 128 < t.n ∨ ∀ d ∈ reg, d.family ≠ Config.familyPwm ∨ tryDefinition d t = none := by
  by_cases hvalid : 16 ≤ t.n ∧ t.n ≤ 128
  · obtain ⟨hmin, hcap⟩ := hvalid
    rw [decodeTrain_valid reg t hmin hcap, List.findSome?_eq_none_iff]
    simp only [attempt_eq_none_iff, Nat.not_lt.mpr hmin, Nat.not_lt.mpr hcap, false_or]
  · have hinvalid : t.n < 16 ∨ 128 < t.n := by omega
    exact iff_of_true (decodeTrain_invalid reg t hinvalid) (or_assoc.mp (.inl hinvalid))

/-- The scan passes over the entries before the first match and never looks at those after it (41_decoder.md R87). -/
theorem decodeTrain_first_match (before after : List Definition) (d : Definition) (t : Train) (a : Accumulator)
    (hmin : 16 ≤ t.n) (hcap : t.n ≤ 128)
    (hbefore : ∀ e ∈ before, e.family ≠ Config.familyPwm ∨ tryDefinition e t = none)
    (hfam : d.family = Config.familyPwm) (htry : tryDefinition d t = some a) :
    decodeTrain (before ++ d :: after) t = some ⟨d.id, BitVec.ofNat 7 a.bits, a.acc⟩ := by
  have hnone : before.findSome? (attempt t) = none :=
    List.findSome?_eq_none_iff.mpr fun e he => (attempt_eq_none_iff t e).mpr (hbefore e he)
  have hsome : attempt t d = some ⟨d.id, BitVec.ofNat 7 a.bits, a.acc⟩ :=
    (attempt_eq_some_iff t d _).mpr ⟨hfam, a, htry, rfl⟩
  rw [decodeTrain_valid _ t hmin hcap, List.findSome?_append, hnone, Option.none_or, List.findSome?_cons, hsome]

/-- DECODE writes the decode result of its train and nothing else. -/
theorem exec_decode_of_decodeTrain (s : State) (r : Option Decoded) (h : decodeTrain s.registry s.block.train = r) :
    exec .decode s = .next { s with block := s.block.setResult r } := by
  rw [exec_decode, Block.runDecode, h]

theorem setResult_none (b : Block) : b.setResult none = b.emptyResult := rfl

/-- Settles O22: each of the three premises makes the decode result empty. -/
theorem decodeWithoutMatchGivesTheEmptyResult : Obligations.DecodeWithoutMatchGivesTheEmptyResult := by
  unfold Obligations.DecodeWithoutMatchGivesTheEmptyResult
  intro s h
  have hnone : decodeTrain s.registry s.block.train = none := (decodeTrain_eq_none_iff _ _).mpr h
  rw [exec_decode_of_decodeTrain s none hnone, setResult_none]

/-- Settles O23: the decode result is that of the first entry that matches, and DECODE writes its three fields. -/
theorem decodeFirstMatchWins : Obligations.DecodeFirstMatchWins := by
  unfold Obligations.DecodeFirstMatchWins
  intro s before after d a hmin hcap hreg hbefore hfam htry
  have hsome : decodeTrain s.registry s.block.train = some ⟨d.id, BitVec.ofNat 7 a.bits, a.acc⟩ := by
    rw [hreg]
    exact decodeTrain_first_match before after d s.block.train a hmin hcap hbefore hfam htry
  exact exec_decode_of_decodeTrain s _ hsome

end Sys2Proof.Machine
end

section
/-! The duplicate filter on a known value, on a new value and on a saturated log, two submissions of one value in a row, and the
invariant of the machine under every step (42_dupfilter.md R91 to R101, 10_state.md R16, R17, R27, 41_decoder.md R89). -/

namespace Sys2Proof.Machine

-- The branches of CHKDUP

theorem nowMs_eq_msOf (time : Wide) : nowMs time = msOf time := by
  apply BitVec.eq_of_toNat_eq
  rw [nowMs_toNat, msOf, BitVec.toNat_ofNat, Nat.mod_eq_of_lt (by omega)]

theorem nowMs_lt (time : Wide) : (nowMs time).toNat < 2 ^ 55 := by
  rw [nowMs_toNat]
  omega

theorem firstEntry_holdsValue_eq_some_iff (v : Wide) (log : Vector LogEntry 20) (i : Fin 20) :
    firstEntry (holdsValue v) log = some i ↔ log[i].val = v ∧ ∀ j : Fin 20, j < i → log[j].val ≠ v := by
  simp only [firstEntry_eq_some_iff, holdsValue_eq_true, holdsValue_eq_false]

theorem firstEntry_holdsValue_eq_none_iff (v : Wide) (log : Vector LogEntry 20) :
    firstEntry (holdsValue v) log = none ↔ ∀ j : Fin 20, log[j].val ≠ v := by
  simp only [firstEntry_eq_none_iff, holdsValue_eq_false]

/-- Staleness at `time`, in whole milliseconds (42_dupfilter.md R92, R95). -/
theorem firstEntry_expired_eq_some_iff (time : Wide) (log : Vector LogEntry 20) (i : Fin 20) :
    firstEntry (expired (nowMs time)) log = some i ↔
      1000 < ((time.toNat / 1000 : Nat) : Int) - (log[i].last.toNat : Int) ∧
      ∀ j : Fin 20, j < i → ((time.toNat / 1000 : Nat) : Int) - (log[j].last.toNat : Int) ≤ 1000 := by
  simp only [firstEntry_eq_some_iff, expired_eq_true, expired_eq_false, nowMs_toNat]

theorem firstEntry_expired_eq_none_iff (time : Wide) (log : Vector LogEntry 20) :
    firstEntry (expired (nowMs time)) log = none ↔
      ∀ j : Fin 20, ((time.toNat / 1000 : Nat) : Int) - (log[j].last.toNat : Int) ≤ 1000 := by
  simp only [firstEntry_eq_none_iff, expired_eq_false, nowMs_toNat]

/-- A known value: its first entry is refreshed, and DUP is the answer to its age before that (42_dupfilter.md R94, R95). -/
theorem runChkdup_of_known (b : Block) (i : Fin 20) (h : firstEntry (holdsValue b.argVal) b.log = some i) :
    b.runChkdup = (b.setLog i ⟨nowMs b.time, b.argBits, b.argVal⟩).setDup (!expired (nowMs b.time) b.log[i]) := by
  have hval : b.log[i].val = b.argVal := ((firstEntry_holdsValue_eq_some_iff _ _ i).mp h).1
  unfold Block.runChkdup
  simp only [Block_signal_time, Block_signal_bits, Block_signal_val, h, hval]

/-- A new value with a stale entry: the first stale entry is overwritten (42_dupfilter.md R96, R98). -/
theorem runChkdup_of_new (b : Block) (i : Fin 20) (hnew : firstEntry (holdsValue b.argVal) b.log = none)
    (hstale : firstEntry (expired (nowMs b.time)) b.log = some i) :
    b.runChkdup = (b.setLog i ⟨nowMs b.time, b.argBits, b.argVal⟩).setDup false := by
  unfold Block.runChkdup
  simp only [Block_signal_time, Block_signal_bits, Block_signal_val, hnew, hstale]

/-- A new value with no stale entry: Log-saturation (42_dupfilter.md R97). -/
theorem runChkdup_of_saturated (b : Block) (hnew : ∀ j : Fin 20, b.log[j].val ≠ b.argVal)
    (hfull : ∀ j : Fin 20, ((b.time.toNat / 1000 : Nat) : Int) - (b.log[j].last.toNat : Int) ≤ 1000) :
    b.runChkdup = b.setDup false := by
  have hnone := (firstEntry_holdsValue_eq_none_iff _ _).mpr hnew
  have hfresh := (firstEntry_expired_eq_none_iff _ _).mpr hfull
  unfold Block.runChkdup
  simp only [Block_signal_time, Block_signal_val, hnone, hfresh]

/-- DUP for a known value is the answer to the signed age being at most the window. -/
theorem not_expired_eq_decide (time : Wide) (e : LogEntry) :
    (!expired (nowMs time) e) = decide (((time.toNat / 1000 : Nat) : Int) - (e.last.toNat : Int) ≤ 1000) := by
  rw [Bool.eq_iff_iff, Bool.not_eq_true', expired_eq_false, nowMs_toNat, decide_eq_true_iff]

/-- Settles O38: the premises name the entry the value scan finds, and CHKDUP refreshes that entry. -/
theorem knownValueIsClassifiedByItsAge : Obligations.KnownValueIsClassifiedByItsAge := by
  unfold Obligations.KnownValueIsClassifiedByItsAge
  intro s i hval hbefore
  have hfound := (firstEntry_holdsValue_eq_some_iff _ _ i).mpr ⟨hval, hbefore⟩
  rw [exec_chkdup, runChkdup_of_known s.block i hfound, not_expired_eq_decide, nowMs_eq_msOf]
  split
  next hold => rw [decide_eq_false (not_le.mpr hold)]; rfl
  next hyoung => rw [decide_eq_true (not_lt.mp hyoung)]; rfl

/-- Settles O39: the value scan finds nothing, the premises name the entry the age scan finds, and CHKDUP overwrites it. -/
theorem newValueClaimsTheFirstStaleEntry : Obligations.NewValueClaimsTheFirstStaleEntry := by
  unfold Obligations.NewValueClaimsTheFirstStaleEntry
  intro s i hnew hstale hbefore
  have hnone := (firstEntry_holdsValue_eq_none_iff _ _).mpr hnew
  have hfound := (firstEntry_expired_eq_some_iff _ _ i).mpr ⟨hstale, hbefore⟩
  rw [exec_chkdup, runChkdup_of_new s.block i hnone hfound, nowMs_eq_msOf]
  rfl

/-- Settles O40: the first CHKDUP leaves the log, so at the later time both scans again find nothing. -/
theorem saturatedLogRecordsNothing : Obligations.SaturatedLogRecordsNothing := by
  unfold Obligations.SaturatedLogRecordsNothing
  intro s time hnew hfull hlater
  have hfirst : s.block.runChkdup = s.block.setDup false := runChkdup_of_saturated s.block hnew hfull
  refine ⟨_, exec_chkdup s, by rw [hfirst]; rfl, ?_⟩
  rw [hfirst, exec_chkdup, runChkdup_of_saturated { s.block.setDup false with time := time } hnew hlater]
  rfl

-- Two submissions of one value

/-- An entry written for `v` behind entries of other values is the first that holds `v`. -/
theorem firstEntry_holdsValue_setLog (b : Block) (i : Fin 20) (time : Wide) (bits : BitVec 7) (v : Wide)
    (h : ∀ j : Fin 20, j < i → b.log[j].val ≠ v) :
    firstEntry (holdsValue v) (b.setLog i ⟨time, bits, v⟩).log = some i := by
  rw [firstEntry_holdsValue_eq_some_iff]
  refine ⟨by rw [Block_setLog_getElem, if_pos rfl], fun j hj => ?_⟩
  rw [Block_setLog_getElem, if_neg hj.ne']
  exact h j hj

/-- Such an entry, written by CHKDUP, carries CHKDUP's time. -/
theorem setLog_recorded (b : Block) (i : Fin 20) (v : Bool) (h : ∀ j : Fin 20, j < i → b.log[j].val ≠ b.argVal) :
    ∃ k, firstEntry (holdsValue b.argVal) ((b.setLog i ⟨nowMs b.time, b.argBits, b.argVal⟩).setDup v).log = some k ∧
      ((b.setLog i ⟨nowMs b.time, b.argBits, b.argVal⟩).setDup v).log[k].last = nowMs b.time := by
  refine ⟨i, firstEntry_holdsValue_setLog b i _ _ _ h, ?_⟩
  rw [Block_setDup_log, Block_setLog_getElem, if_pos rfl]

/-- A value that is in the log after its CHKDUP has that CHKDUP's time in the first entry that holds it. -/
theorem runChkdup_recorded (b : Block) (h : ∃ j : Fin 20, b.runChkdup.log[j].val = b.argVal) :
    ∃ i, firstEntry (holdsValue b.argVal) b.runChkdup.log = some i ∧ b.runChkdup.log[i].last = nowMs b.time := by
  obtain ⟨i, hfound, -⟩ | ⟨hnone, i, hstale, -⟩ | ⟨hnone, -, hrun⟩ := runChkdup_cases b
  · rw [runChkdup_of_known b i hfound]
    exact setLog_recorded b i _ ((firstEntry_holdsValue_eq_some_iff _ _ i).mp hfound).2
  · rw [runChkdup_of_new b i hnone hstale]
    exact setLog_recorded b i _ fun j _ => (firstEntry_holdsValue_eq_none_iff _ _).mp hnone j
  · obtain ⟨j, hj⟩ := h
    rw [hrun] at hj
    exact absurd hj ((firstEntry_holdsValue_eq_none_iff _ _).mp hnone j)

theorem runChkdup_argVal (b : Block) : b.runChkdup.argVal = b.argVal := by
  obtain ⟨_, _, h⟩ := runChkdup_frame b
  rw [h]

/-- Settles O42: the second CHKDUP finds the entry that carries the first one's time. -/
theorem duplicateWindowSlides : Obligations.DuplicateWindowSlides := by
  unfold Obligations.DuplicateWindowSlides
  intro s time bits
  refine ⟨_, exec_chkdup s, fun hin => ⟨_, exec_chkdup _, ?_⟩⟩
  obtain ⟨i, hfound, hlast⟩ := runChkdup_recorded s.block hin
  rw [← runChkdup_argVal] at hfound
  rw [runChkdup_of_known { s.block.runChkdup with time := time, argBits := bits } i hfound, Block_setDup_dupFlag,
    not_expired_eq_decide, hlast, nowMs_toNat]

-- The results of a decode

theorem msbValue_append_singleton (bits : List Bool) (b : Bool) : msbValue (bits ++ [b]) = 2 * msbValue bits + b.toNat := by
  simp only [msbValue, List.foldl_append, List.foldl_cons, List.foldl_nil]

theorem msbValue_lt (bits : List Bool) : msbValue bits < 2 ^ bits.length := by
  induction bits using List.reverseRecOn with
  | nil => decide
  | append_singleton bits b ih =>
    have hbit := b.toNat_lt
    rw [msbValue_append_singleton, List.length_append, List.length_singleton, pow_succ]
    omega

/-- What TRY accumulates: one bit for each pair from the first cursor to the last usable pulse, and the number of those bits. -/
theorem tryDefinition_accumulates (d : Definition) (t : Train) (a : Accumulator) (h : tryDefinition d t = some a) :
    a.bits = (lastUsable d t - firstCursor d t + 1) / 2 ∧ a.acc.toNat < 2 ^ a.bits := by
  obtain ⟨bits, hlen, -, hbits, hacc⟩ := (symbolLoop_eq_some_iff d t _ _ _ _ a (by omega)).mp h
  have hcount : a.bits = bits.length := hbits.trans (Nat.zero_add _)
  have hvalue : a.acc.toNat = msbValue bits % 2 ^ 64 := hacc
  refine ⟨hcount.trans hlen, ?_⟩
  rw [hvalue, hcount]
  exact (Nat.mod_le _ _).trans_lt (msbValue_lt bits)

/-- 41_decoder.md R89: alignment and sync take at most 3 pulses and a trailing gap one, so 16 to 128 pulses leave 6 to 64 pairs. -/
theorem tryDefinition_bits (d : Definition) (t : Train) (a : Accumulator) (hmin : 16 ≤ t.n) (hcap : t.n ≤ 128)
    (h : tryDefinition d t = some a) : 6 ≤ a.bits ∧ a.bits ≤ 64 := by
  have hbits := (tryDefinition_accumulates d t a h).1
  have hfirst := firstCursor_le d t
  have hlast := lastUsable_cases d t
  omega

/-- Whatever a decode answers, writing it makes the result registers agree with MATCH. -/
theorem setResult_decodeTrain_resultOk (b : Block) (reg : List Definition) (t : Train) :
    (b.setResult (decodeTrain reg t)).ResultOk reg := by
  obtain hnone | ⟨d, hd, a, hmin, hcap, hfam, htry, hsome⟩ := decodeTrain_cases reg t
  · rw [hnone]
    exact ⟨rfl, rfl, rfl⟩
  · obtain ⟨hsix, hmax⟩ := tryDefinition_bits d t a hmin hcap htry
    have hval := (tryDefinition_accumulates d t a htry).2
    have hbits : (BitVec.ofNat 7 a.bits).toNat = a.bits := by
      rw [BitVec.toNat_ofNat, Nat.mod_eq_of_lt (by omega)]
    rw [hsome, Block.ResultOk, Block_setResult_some_matchFlag, if_pos rfl, Block_setResult_some_resBits,
      Block_setResult_some_resVal, Block_setResult_some_resId, hbits]
    exact ⟨hsix, hmax, hval, d, hd, hfam, rfl⟩

-- The log

/-- Overwriting an entry keeps non-zero values different when no other entry has the new value, or that value is 0. -/
theorem setLog_logDistinct (b : Block) (i : Fin 20) (e : LogEntry) (hb : b.LogDistinct)
    (he : ∀ j : Fin 20, j ≠ i → b.log[j].val = e.val → e.val = 0) : (b.setLog i e).LogDistinct := by
  intro j k hjk hval
  rw [Block_setLog_getElem, Block_setLog_getElem] at hval
  rw [Block_setLog_getElem]
  by_cases hj : i = j
  · have hk : i ≠ k := fun hk => hjk (hj.symm.trans hk)
    rw [if_pos hj, if_neg hk] at hval
    rw [if_pos hj]
    exact he k hk.symm hval.symm
  · rw [if_neg hj] at hval ⊢
    by_cases hk : i = k
    · rw [if_pos hk] at hval
      exact hval.trans (he j (Ne.symm hj) hval)
    · rw [if_neg hk] at hval
      exact hb j k hjk hval

theorem setLog_logTimes (b : Block) (i : Fin 20) (e : LogEntry) (hb : b.LogTimes) (he : e.last.toNat < 2 ^ 55) :
    (b.setLog i e).LogTimes := by
  intro j
  rw [Block_setLog_getElem]
  split
  · exact he
  · exact hb j

theorem runChkdup_logDistinct (b : Block) (hb : b.LogDistinct) : b.runChkdup.LogDistinct := by
  obtain ⟨i, -, hrun⟩ | ⟨hnone, i, -, hrun⟩ | ⟨-, -, hrun⟩ := runChkdup_cases b <;> rw [hrun]
  · exact setLog_logDistinct b i _ hb fun j hj hval => hval.symm.trans (hb j i hj hval)
  · have hnew := (firstEntry_holdsValue_eq_none_iff _ _).mp hnone
    exact setLog_logDistinct b i _ hb fun j _ hval => absurd hval (hnew j)
  · exact hb

theorem runChkdup_logTimes (b : Block) (hb : b.LogTimes) : b.runChkdup.LogTimes := by
  obtain ⟨i, -, hrun⟩ | ⟨-, i, -, hrun⟩ | ⟨-, -, hrun⟩ := runChkdup_cases b <;> rw [hrun]
  · exact setLog_logTimes b i _ hb (nowMs_lt b.time)
  · exact setLog_logTimes b i _ hb (nowMs_lt b.time)
  · exact hb

-- The invariant

/-- The part of the invariant that commands on the block have to keep. -/
structure Block.Inv (b : Block) (reg : List Definition) : Prop where
  result : b.ResultOk reg
  distinct : b.LogDistinct
  times : b.LogTimes

theorem inv_iff (s : State) : s.Inv ↔ registryWf s.registry = true ∧ s.block.Inv s.registry :=
  ⟨fun h => ⟨h.registry, h.result, h.distinct, h.times⟩, fun ⟨hreg, h⟩ => ⟨hreg, h.result, h.distinct, h.times⟩⟩

/-- The invariant of the block is about the result, MATCH and the log alone. -/
theorem Block_inv_congr (b c : Block) (reg : List Definition) (h : b.Inv reg) (hmatch : c.matchFlag = b.matchFlag)
    (hid : c.resId = b.resId) (hbits : c.resBits = b.resBits) (hval : c.resVal = b.resVal) (hlog : c.log = b.log) :
    c.Inv reg where
  result := by
    rw [Block.ResultOk, hmatch, hid, hbits, hval]
    exact h.result
  distinct := by
    rw [Block.LogDistinct, hlog]
    exact h.distinct
  times := by
    rw [Block.LogTimes, hlog]
    exact h.times

theorem reset_inv (reg : List Definition) : Block.reset.Inv reg where
  result := ⟨rfl, rfl, rfl⟩
  distinct i _ _ _ := congrArg LogEntry.val (Vector.getElem_replicate i.isLt)
  times i := by
    have hentry : Block.reset.log[i] = logEntryReset := Vector.getElem_replicate i.isLt
    rw [hentry]
    decide

theorem runDecode_inv (b : Block) (reg : List Definition) (h : b.Inv reg) : (b.runDecode reg).Inv reg where
  result := setResult_decodeTrain_resultOk b reg b.train
  distinct := by
    obtain ⟨_, _, _, _, hframe⟩ := runDecode_frame b reg
    rw [hframe]
    exact h.distinct
  times := by
    obtain ⟨_, _, _, _, hframe⟩ := runDecode_frame b reg
    rw [hframe]
    exact h.times

theorem runChkdup_inv (b : Block) (reg : List Definition) (h : b.Inv reg) : b.runChkdup.Inv reg where
  result := by
    obtain ⟨_, _, hframe⟩ := runChkdup_frame b
    rw [hframe]
    exact h.result
  distinct := runChkdup_logDistinct b h.distinct
  times := runChkdup_logTimes b h.times

/-- EVENT is DECODE, then on a match CHKDUP on the arguments copied from the result, else DUP = 0. -/
theorem runEvent_inv (b : Block) (reg : List Definition) (h : b.Inv reg) : (b.runEvent reg).Inv reg := by
  have hdecode := runDecode_inv b reg h
  unfold Block.runEvent
  split
  · exact runChkdup_inv _ reg (Block_inv_congr _ _ reg hdecode rfl rfl rfl rfl rfl)
  · exact Block_inv_congr _ _ reg hdecode rfl rfl rfl rfl rfl

theorem writeWord_inv (b : Block) (a : BusAddr) (v : Word) (reg : List Definition) (h : b.Inv reg) :
    (writeWord b a v).Inv reg := by
  obtain ⟨_, _, _, _, _, hframe⟩ := writeWord_frame b a v
  rw [hframe]
  exact Block_inv_congr b _ reg h rfl rfl rfl rfl rfl

/-- Replacing the block by one that meets the block's part of the invariant, with any script and any words read. -/
theorem inv_with_block (s : State) (b : Block) (hs : s.Inv) (hb : b.Inv s.registry) : ({ s with block := b } : State).Inv :=
  (inv_iff _).mpr ⟨hs.registry, hb⟩

theorem exec_inv (i : Instr) (s : State) (hs : s.Inv) : ∃ t, exec i s = .next t ∧ t.Inv := by
  have hb : s.block.Inv s.registry := ((inv_iff s).mp hs).2
  cases i with
  | nop => exact ⟨s, rfl, hs⟩
  | decode => exact ⟨_, exec_decode s, inv_with_block s _ hs (runDecode_inv _ _ hb)⟩
  | chkdup => exact ⟨_, exec_chkdup s, inv_with_block s _ hs (runChkdup_inv _ _ hb)⟩
  | event => exact ⟨_, exec_event s, inv_with_block s _ hs (runEvent_inv _ _ hb)⟩
  | reset => exact ⟨s.resetBlock, rfl, inv_with_block s _ hs (reset_inv _)⟩

theorem issue_inv (w : Word) (s : State) (hs : s.Inv) : ∃ t, issue w s = .next t ∧ t.Inv := by
  by_cases hw : ∃ i, w = encodeWord i
  · obtain ⟨i, rfl⟩ := hw
    rw [issue_encodeWord]
    exact exec_inv i s hs
  · have hb : s.block.Inv s.registry := ((inv_iff s).mp hs).2
    exact ⟨_, issue_illegal w s hw, inv_with_block s _ hs (Block_inv_congr _ _ _ hb rfl rfl rfl rfl rfl)⟩

theorem perform_inv (e : HostEvent) (s : State) (hs : s.Inv) : ∃ t, perform e s = .next t ∧ t.Inv := by
  cases e with
  | read a => exact ⟨_, perform_read a s, (inv_iff _).mpr ((inv_iff s).mp hs)⟩
  | hardReset => exact ⟨_, perform_hardReset s, inv_with_block s _ hs (reset_inv _)⟩
  | write a v =>
    by_cases ha : a = 0
    · rw [ha, perform_write_zero]
      exact issue_inv v s hs
    · have hb : s.block.Inv s.registry := ((inv_iff s).mp hs).2
      exact ⟨_, perform_write_other a v s ha, inv_with_block s _ hs (writeWord_inv _ a v _ hb)⟩

/-- Settles O53: an idle step moves nothing, and each host event keeps the invariant. -/
theorem stepKeepsTheInvariant : Obligations.StepKeepsTheInvariant := by
  unfold Obligations.StepKeepsTheInvariant
  intro s hs
  cases hscript : s.script with
  | nil => exact ⟨s, step_idle s hscript, hs⟩
  | cons e rest =>
    rw [step_event s e rest hscript]
    exact perform_inv e _ ((inv_iff _).mpr ((inv_iff s).mp hs))

end Sys2Proof.Machine
end

section
/-! RESET and NOP (43_control.md R102, R104). -/

namespace Sys2Proof.Machine

theorem exec_nop (s : State) : exec .nop s = .next s := rfl

theorem exec_reset (s : State) : exec .reset s = .next s.resetBlock := rfl

/-- 70_reset_and_hazards.md R125: a hardware reset event answers what the command RESET answers. -/
theorem step_hardReset_eq_exec_reset (s : State) : step { s with script := .hardReset :: s.script } = exec .reset s := by
  rw [step_event _ .hardReset s.script rfl, perform_hardReset, exec_reset]

theorem exec_keeps_cmdErr (i : Instr) (s : State) (hi : i ≠ .reset) :
    ∃ t, exec i s = .next t ∧ t.block.cmdErr = s.block.cmdErr := by
  obtain ⟨b, hb⟩ := exec_next i s
  exact ⟨_, hb, (exec_cmdErr i s _ hb).trans (if_neg hi)⟩

/-- Settles O20: the word is the table's for RESET, and the reset block is the block with every field 0. -/
theorem resetCommandClearsTheBlock : Obligations.ResetCommandClearsTheBlock := by
  unfold Obligations.ResetCommandClearsTheBlock
  refine ⟨decodeWord_encodeWord .reset, fun s => ⟨?_, ?_, ?_⟩⟩
  · exact exec_reset s
  · exact step_hardReset_eq_exec_reset s
  · exact fun i hi => exec_keeps_cmdErr i s hi

/-- Settles O21: the word of zeros is the table's for NOP. -/
theorem nopChangesNothing : Obligations.NopChangesNothing := by
  unfold Obligations.NopChangesNothing
  exact ⟨decodeWord_encodeWord .nop, exec_nop⟩

end Sys2Proof.Machine
end

section
/-! The registry ROM (30_encoding.md R57, R58; 00_scope.md R6): the fields of the three entry words, one slot and a whole image read
back, and the reset states made from an image. -/

namespace Sys2Proof

/-- A field of a word as a number. -/
theorem extract_toNat {n : Nat} (x : BitVec n) (k w : Nat) : (x.extractLsb' k w).toNat = x.toNat / 2 ^ k % 2 ^ w := by
  rw [BitVec.extractLsb'_toNat, Nat.shiftRight_eq_div_pow]

/-- A bit of a word as a number. -/
theorem flagValue_getLsbD {n : Nat} (x : BitVec n) (k : Nat) : Machine.flagValue (x.getLsbD k) = x.toNat / 2 ^ k % 2 := by
  rw [BitVec.getLsbD, Nat.testBit_eq_decide_div_mod_eq, Machine.flagValue]
  split <;> simp_all

theorem flagValue_inj (a b : Bool) (h : Machine.flagValue a = Machine.flagValue b) : a = b := by
  cases a <;> cases b <;> simp_all [Machine.flagValue]

-- One entry

theorem Definition.wf_iff (d : Definition) : d.wf = true ↔ d.family = Config.familyPwm ∧ d.tol.toNat ≤ 100 := by
  simp only [Definition.wf, Bool.and_eq_true, beq_iff_eq, decide_eq_true_eq]

/-- The fields of REG_W0 are the definition's (30_encoding.md R57). -/
theorem definitionWord0_fields (d : Definition) :
    (definitionWord0 d).extractLsb' 0 8 = d.id ∧ (definitionWord0 d).extractLsb' 8 8 = d.family ∧
    (definitionWord0 d).extractLsb' 16 8 = d.tol ∧ (definitionWord0 d).getLsbD 24 = d.inverted ∧
    (definitionWord0 d).getLsbD 25 = d.addLastPulse ∧ (definitionWord0 d).extractLsb' 26 6 = 0 := by
  have hword := Machine.definitionWord0_toNat d
  have hinverted := Machine.flagValue_le_one d.inverted
  have hlast := Machine.flagValue_le_one d.addLastPulse
  refine ⟨BitVec.eq_of_toNat_eq ?_, BitVec.eq_of_toNat_eq ?_, BitVec.eq_of_toNat_eq ?_, flagValue_inj _ _ ?_,
    flagValue_inj _ _ ?_, BitVec.eq_of_toNat_eq ?_⟩ <;>
  simp only [extract_toNat, flagValue_getLsbD, BitVec.ofNat_eq_ofNat, BitVec.toNat_ofNat] <;> omega

/-- The fields of REG_W1 are the definition's (30_encoding.md R57). -/
theorem definitionWord1_fields (d : Definition) :
    (definitionWord1 d).extractLsb' 0 16 = d.base ∧ (definitionWord1 d).extractLsb' 16 8 = d.sync.high ∧
    (definitionWord1 d).extractLsb' 24 8 = d.sync.low := by
  have hword := Machine.definitionWord1_toNat d
  refine ⟨BitVec.eq_of_toNat_eq ?_, BitVec.eq_of_toNat_eq ?_, BitVec.eq_of_toNat_eq ?_⟩ <;>
  rw [extract_toNat] <;> omega

/-- The fields of REG_W2 are the definition's (30_encoding.md R57). -/
theorem definitionWord2_fields (d : Definition) :
    (definitionWord2 d).extractLsb' 0 8 = d.zero.high ∧ (definitionWord2 d).extractLsb' 8 8 = d.zero.low ∧
    (definitionWord2 d).extractLsb' 16 8 = d.one.high ∧ (definitionWord2 d).extractLsb' 24 8 = d.one.low := by
  have hword := Machine.definitionWord2_toNat d
  refine ⟨BitVec.eq_of_toNat_eq ?_, BitVec.eq_of_toNat_eq ?_, BitVec.eq_of_toNat_eq ?_, BitVec.eq_of_toNat_eq ?_⟩ <;>
  rw [extract_toNat] <;> omega

/-- The three words of a definition are read as that definition, well formed or not. -/
theorem wordsToDefinition_definitionWords (d : Definition) :
    wordsToDefinition (definitionWord0 d) (definitionWord1 d) (definitionWord2 d) = d := by
  obtain ⟨hid, hfamily, htol, hinverted, hlast, -⟩ := definitionWord0_fields d
  obtain ⟨hbase, hsyncHigh, hsyncLow⟩ := definitionWord1_fields d
  obtain ⟨hzeroHigh, hzeroLow, honeHigh, honeLow⟩ := definitionWord2_fields d
  simp only [wordsToDefinition, hid, hfamily, htol, hinverted, hlast, hbase, hsyncHigh, hsyncLow, hzeroHigh, hzeroLow,
    honeHigh, honeLow]

-- The other direction: the words of what was read are the words, the reserved bits being zero.

theorem definitionWord0_wordsToDefinition (w0 w1 w2 : Word) (h : w0.extractLsb' 26 6 = 0) :
    definitionWord0 (wordsToDefinition w0 w1 w2) = w0 := by
  have hreserved : w0.toNat / 2 ^ 26 % 2 ^ 6 = 0 := by
    rw [← extract_toNat, h]
    rfl
  apply BitVec.eq_of_toNat_eq
  simp only [Machine.definitionWord0_toNat, wordsToDefinition, extract_toNat, flagValue_getLsbD]
  omega

theorem definitionWord1_wordsToDefinition (w0 w1 w2 : Word) : definitionWord1 (wordsToDefinition w0 w1 w2) = w1 := by
  apply BitVec.eq_of_toNat_eq
  simp only [Machine.definitionWord1_toNat, wordsToDefinition, extract_toNat]
  omega

theorem definitionWord2_wordsToDefinition (w0 w1 w2 : Word) : definitionWord2 (wordsToDefinition w0 w1 w2) = w2 := by
  apply BitVec.eq_of_toNat_eq
  simp only [Machine.definitionWord2_toNat, wordsToDefinition, extract_toNat]
  omega

/-- What the slot reader accepts: reserved bits zero, and the definition of the three words well formed (00_scope.md R6). -/
theorem romSlotToDefinition_eq_ok_iff (r : RomSlot) (d : Definition) :
    romSlotToDefinition r = .ok d ↔
      (r.w0.extractLsb' 26 6 = 0 ∧ r.w3 = 0) ∧ d.wf = true ∧ wordsToDefinition r.w0 r.w1 r.w2 = d := by
  unfold romSlotToDefinition
  constructor
  · intro h
    split at h
    · cases h
    next hreserved =>
      split at h
      · cases h
      next hfamily =>
        split at h
        · cases h
        next htol =>
          cases h
          exact ⟨by simpa only [not_or, not_not] using hreserved,
            (Definition.wf_iff _).mpr ⟨not_not.mp hfamily, not_lt.mp htol⟩, rfl⟩
  · rintro ⟨⟨hbits, hfourth⟩, hwf, rfl⟩
    obtain ⟨hfamily, htol⟩ := (Definition.wf_iff _).mp hwf
    rw [if_neg (not_or.mpr ⟨not_not.mpr hbits, not_not.mpr hfourth⟩), if_neg (not_not.mpr hfamily), if_neg (not_lt.mpr htol)]

/-- Settles O4: the reader's checks are well-formedness and zero reserved bits, and the fields and the words determine each other. -/
theorem registryEntryRoundTrip : Obligations.RegistryEntryRoundTrip := by
  unfold Obligations.RegistryEntryRoundTrip
  intro r d
  rw [romSlotToDefinition_eq_ok_iff]
  constructor
  · rintro ⟨⟨hbits, hfourth⟩, hwf, rfl⟩
    refine ⟨hwf, ?_⟩
    rw [definitionToRomSlot, definitionWord0_wordsToDefinition _ _ _ hbits, definitionWord1_wordsToDefinition,
      definitionWord2_wordsToDefinition, ← hfourth]
  · rintro ⟨hwf, rfl⟩
    obtain ⟨-, -, -, -, -, hbits⟩ := definitionWord0_fields d
    exact ⟨⟨hbits, rfl⟩, hwf, wordsToDefinition_definitionWords d⟩

-- A whole image

theorem romSlotsToDefinitions_cons_eq_ok_iff (r : RomSlot) (rs : List RomSlot) (reg : List Definition) :
    romSlotsToDefinitions (r :: rs) = .ok reg ↔
      ∃ d ds, romSlotToDefinition r = .ok d ∧ romSlotsToDefinitions rs = .ok ds ∧ d :: ds = reg := by
  rw [romSlotsToDefinitions]
  cases romSlotToDefinition r <;> cases romSlotsToDefinitions rs <;>
    simp [bind, Except.bind, pure, Except.pure]

/-- Slot by slot, the image determines the definitions and they determine it. -/
theorem romSlotsToDefinitions_eq_ok_iff (image : List RomSlot) (reg : List Definition) :
    romSlotsToDefinitions image = .ok reg ↔ (∀ d ∈ reg, d.wf = true) ∧ image = reg.map definitionToRomSlot := by
  induction image generalizing reg with
  | nil =>
    cases reg with
    | nil => simp [romSlotsToDefinitions]
    | cons d ds => simp [romSlotsToDefinitions]
  | cons r rs ih =>
    rw [romSlotsToDefinitions_cons_eq_ok_iff]
    constructor
    · rintro ⟨d, ds, hd, hds, rfl⟩
      obtain ⟨hwf, rfl⟩ := (registryEntryRoundTrip r d).mp hd
      obtain ⟨hall, rfl⟩ := (ih ds).mp hds
      exact ⟨List.forall_mem_cons.mpr ⟨hwf, hall⟩, rfl⟩
    · rintro ⟨hall, himage⟩
      cases reg with
      | nil => cases himage
      | cons d ds =>
        obtain ⟨hr, hrs⟩ := List.cons.inj himage
        obtain ⟨hwf, hwfs⟩ := List.forall_mem_cons.mp hall
        exact ⟨d, ds, (registryEntryRoundTrip r d).mpr ⟨hwf, hr.symm⟩, (ih ds).mpr ⟨hwfs, hrs⟩, rfl⟩

theorem registryWf_iff (reg : List Definition) : registryWf reg = true ↔ reg.length ≤ 128 ∧ ∀ d ∈ reg, d.wf = true := by
  simp only [registryWf, Bool.and_eq_true, decide_eq_true_eq, List.all_eq_true]

/-- The image reader bounds the number of slots, then reads them one by one. -/
theorem romImageToRegistry_eq_ok_iff (image : List RomSlot) (reg : List Definition) :
    romImageToRegistry image = .ok reg ↔ image.length ≤ 128 ∧ romSlotsToDefinitions image = .ok reg := by
  unfold romImageToRegistry
  split
  next hlong => simp only [reduceCtorEq, false_iff, not_and_or, not_le]; exact .inl hlong
  next hfits => simp only [not_lt.mp hfits, true_and]

/-- Settles O5: induction over the slots; an image has as many slots as its registry entries, so the bound is the same. -/
theorem romImageRoundTrip : Obligations.RomImageRoundTrip := by
  unfold Obligations.RomImageRoundTrip
  intro image reg
  rw [romImageToRegistry_eq_ok_iff, romSlotsToDefinitions_eq_ok_iff, registryWf_iff]
  constructor
  · rintro ⟨hlen, hwf, rfl⟩
    exact ⟨⟨by simpa only [List.length_map] using hlen, hwf⟩, rfl⟩
  · rintro ⟨⟨hlen, hwf⟩, rfl⟩
    exact ⟨by simpa only [List.length_map] using hlen, hwf, rfl⟩

namespace Machine

/-- `State.ofRom` with what the image reader accepts written out. -/
theorem ofRom_eq_ok_iff_image (image : List RomSlot) (s : State) : State.ofRom image = .ok s ↔
    ∃ reg, registryWf reg = true ∧ image = reg.map definitionToRomSlot ∧ s = { State.reset with registry := reg } := by
  simp only [State.ofRom_eq_ok_iff, romImageRoundTrip image, and_assoc]

/-- Settles O55: O5 on the image; the parameter of the model is a well-formed registry. -/
theorem instancesAreTheWellFormedRegistries : Obligations.InstancesAreTheWellFormedRegistries := by
  unfold Obligations.InstancesAreTheWellFormedRegistries
  refine ⟨ofRom_eq_ok_iff_image, fun image hnone => ?_, ?_, Config.registry_length⟩
  · cases himage : State.ofRom image with
    | error e => exact ⟨e, rfl⟩
    | ok s =>
      obtain ⟨reg, hwf, hreg, -⟩ := (ofRom_eq_ok_iff_image image s).mp himage
      exact absurd hreg (hnone reg hwf)
  · exact (ofRom_eq_ok_iff_image _ _).mpr ⟨Config.registry, Config.registry_wf, rfl, rfl⟩

/-- The reset block with any well-formed registry meets the invariant. -/
theorem reset_with_registry_inv (reg : List Definition) (h : registryWf reg = true) :
    ({ State.reset with registry := reg } : State).Inv :=
  (inv_iff _).mpr ⟨h, reset_inv reg⟩

/-- Settles O54: the parameter is a well-formed registry. -/
theorem resetMeetsTheInvariant : Obligations.ResetMeetsTheInvariant :=
  reset_with_registry_inv Config.registry Config.registry_wf

/-- Settles O56: what is made from an image is the reset state with a well-formed registry. -/
theorem everyInstanceStartsInTheInvariant : Obligations.EveryInstanceStartsInTheInvariant := by
  unfold Obligations.EveryInstanceStartsInTheInvariant
  intro image s h
  obtain ⟨reg, hwf, -, rfl⟩ := (ofRom_eq_ok_iff_image image s).mp h
  exact reset_with_registry_inv reg hwf

end Machine

end Sys2Proof
end

section
/-! The matcher and TRY as the rules state them (40_matcher.md R67 to R73, 41_decoder.md R77 to R89). -/

namespace Sys2Proof.Machine

-- The tolerance test and the pair match

theorem inTolerance_eq_false (m : BitVec 15) (e : Nat) (tol : BitVec 8) (widen : Bool) :
    inTolerance m e tol widen = false ↔ e * effectiveTolerance tol widen ≤ absDiff m.toNat e * 100 := by
  rw [← Bool.not_eq_true, inTolerance_eq_true, not_lt]

/-- The accepted interval around `e`, with the products spread out. -/
theorem inTolerance_iff_interval (m : BitVec 15) (e : Nat) (tol : BitVec 8) (widen : Bool) :
    inTolerance m e tol widen = true ↔
      100 * e < 100 * m.toNat + e * effectiveTolerance tol widen ∧
      100 * m.toNat < 100 * e + e * effectiveTolerance tol widen := by
  rw [inTolerance_eq_true]
  obtain hle | hlt := le_or_gt e m.toNat
  · rw [absDiff_of_le _ _ hle]
    omega
  · rw [absDiff_of_lt _ _ hlt]
    omega

theorem inTolerance_of_zero (m : BitVec 15) (tol : BitVec 8) (widen : Bool) : inTolerance m 0 tol widen = false := by
  rw [inTolerance_eq_false, Nat.zero_mul]
  exact Nat.zero_le _

theorem effectiveTolerance_zero (widen : Bool) : effectiveTolerance 0 widen = 0 := by
  cases widen <;> rfl

theorem inTolerance_tol_zero (m : BitVec 15) (e : Nat) (widen : Bool) : inTolerance m e 0 widen = false := by
  rw [inTolerance_eq_false, effectiveTolerance_zero, Nat.mul_zero]
  exact Nat.zero_le _

/-- Settles O34: the strict comparison of the difference is the two strict bounds. -/
theorem acceptedIntervalIsOpen : Obligations.AcceptedIntervalIsOpen := by
  unfold Obligations.AcceptedIntervalIsOpen
  refine ⟨fun m e tol widen => ?_, inTolerance_of_zero, inTolerance_tol_zero⟩
  rw [inTolerance_iff_interval, mul_sub, mul_add, ← Nat.cast_mul]
  omega

/-- Settles O35: each row is the open interval of its expected duration and effective tolerance, cut at whole microseconds. -/
theorem acceptedDurationsOfProtocolOne : Obligations.AcceptedDurationsOfProtocolOne := by
  unfold Obligations.AcceptedDurationsOfProtocolOne
  intro m
  simp only [inTolerance_iff_interval, expectedDuration, effectiveTolerance_plain, effectiveTolerance_widened,
    BitVec.ofNat_eq_ofNat, BitVec.toNat_ofNat]
  omega

theorem matchPair_eq_true_iff (mh ml : BitVec 15) (u : BitVec 16) (r : Ratio) (tol : BitVec 8) (widen aml : Bool) :
    matchPair mh ml u r tol widen aml = true ↔
      inTolerance mh (expectedDuration r.high u) tol widen = true ∧
      ((aml = true ∧ ml = 0) ∨ inTolerance ml (expectedDuration r.low u) tol widen = true) := by
  unfold matchPair
  cases inTolerance mh (expectedDuration r.high u) tol widen with
  | false => simp
  | true => simp only [if_true, true_and, Bool.if_true_left, Bool.or_eq_true, decide_eq_true_eq, Bool.and_eq_true, beq_iff_eq]

/-- Settles O37: the pseudocode, branch by branch. -/
theorem pairMatchRule : Obligations.PairMatchRule :=
  matchPair_eq_true_iff

/-- A low that is there is held to its tolerance, whether or not it might be missing. -/
theorem matchPair_of_low_present (mh ml : BitVec 15) (u : BitVec 16) (r : Ratio) (tol : BitVec 8) (widen aml : Bool) (h : ml ≠ 0) :
    matchPair mh ml u r tol widen aml = matchPair mh ml u r tol widen false := by
  rw [Bool.eq_iff_iff, matchPair_eq_true_iff, matchPair_eq_true_iff]
  simp only [h, and_false, false_or]

-- The symbols

theorem missingLowAt_eq_decide (c l : Nat) : missingLowAt c l = decide (c + 1 = l) := by
  rw [missingLowAt, beq_eq_decide]

theorem symbolAt_eq_zero_iff (d : Definition) (t : Train) (l c : Nat) :
    symbolAt d t l c = some false ↔ pairMatches d t c d.zero (widenAt c) (missingLowAt c l) = true := by
  unfold symbolAt
  split
  next hzero => simp only [hzero]
  next hzero => split <;> simp [hzero]

theorem symbolAt_eq_one_iff (d : Definition) (t : Train) (l c : Nat) :
    symbolAt d t l c = some true ↔ pairMatches d t c d.zero (widenAt c) (missingLowAt c l) = false ∧
      pairMatches d t c d.one (widenAt c) (missingLowAt c l) = true := by
  unfold symbolAt
  split
  next hzero => simp [hzero]
  next hzero => split <;> simp_all

/-- Settles O25: the two tests in their order. -/
theorem zeroIsTriedBeforeOne : Obligations.ZeroIsTriedBeforeOne := by
  unfold Obligations.ZeroIsTriedBeforeOne
  intro d t l c
  rw [← missingLowAt_eq_decide]
  exact ⟨symbolAt_eq_zero_iff d t l c, symbolAt_eq_one_iff d t l c⟩

-- The cursors

theorem lastUsable_bounds (d : Definition) (t : Train) (hmin : 16 ≤ t.n) (hcap : t.n ≤ 128) :
    14 ≤ lastUsable d t ∧ lastUsable d t ≤ 127 := by
  have hlast := lastUsable_cases d t
  omega

theorem lastUsable_of_trailing_gap (d : Definition) (t : Train) (hflag : d.addLastPulse = false)
    (hgap : (t.pulse (t.n - 1)).dur = 0) : lastUsable d t = t.n - 2 :=
  if_pos ⟨hflag, hgap⟩

theorem lastUsable_of_no_gap (d : Definition) (t : Train) (h : d.addLastPulse = true ∨ (t.pulse (t.n - 1)).dur ≠ 0) :
    lastUsable d t = t.n - 1 := by
  refine if_neg ?_
  rintro ⟨hflag, hgap⟩
  obtain hset | hdur := h
  · exact Bool.false_ne_true (hflag.symm.trans hset)
  · exact hdur hgap

theorem activeLevel_eq_not (d : Definition) : activeLevel d = !d.inverted := by
  unfold activeLevel
  cases d.inverted <;> rfl

theorem alignCursor_of_active (active : Bool) (t : Train) (h : (t.pulse 0).lvl = active) : alignCursor active t = 0 := if_pos h

theorem alignCursor_of_inactive (active : Bool) (t : Train) (h : (t.pulse 0).lvl ≠ active) : alignCursor active t = 1 := if_neg h

/-- Settles O26: each cursor's two cases. -/
theorem cursorStartAndEnd : Obligations.CursorStartAndEnd := by
  unfold Obligations.CursorStartAndEnd
  intro d t hmin hcap
  obtain ⟨hlow, hhigh⟩ := lastUsable_bounds d t hmin hcap
  rw [activeLevel_eq_not]
  refine ⟨lastUsable_of_trailing_gap d t, lastUsable_of_no_gap d t, hlow, hhigh, alignCursor_of_active _ t, fun hlvl => ?_,
    firstCursor_le d t⟩
  exact alignCursor_of_inactive _ t (by rw [hlvl]; exact (Bool.not_ne_self _).symm)

-- TRY as a walk over symbols

/-- Settles O24: the symbol loop from an empty accumulator; at most 64 symbols, so no bit of their number is lost. -/
theorem tryIsTheSymbolWalk : Obligations.TryIsTheSymbolWalk := by
  unfold Obligations.TryIsTheSymbolWalk
  intro d t a hmin hcap
  have hbound := (lastUsable_bounds d t hmin hcap).2
  have hloop := symbolLoop_eq_some_iff d t (lastUsable d t) (lastUsable d t) (firstCursor d t) accumulatorStart a (by omega)
  refine hloop.trans (exists_congr fun bits => and_congr_right fun hlen => and_congr_right fun _ => ?_)
  have hfits : msbValue bits < 2 ^ 64 := (msbValue_lt bits).trans_le (Nat.pow_le_pow_right (by omega) (by omega))
  have hstart : bits.foldl (fun v b => 2 * v + b.toNat) accumulatorStart.acc.toNat % 2 ^ 64 = msbValue bits :=
    Nat.mod_eq_of_lt hfits
  have hcount : accumulatorStart.bits = 0 := rfl
  rw [hstart, hcount, Nat.zero_add]

end Sys2Proof.Machine
end

section
/-! The train built from exact pair timings, in the buffer and through TRY (95_test_vectors.md E1). -/

namespace Sys2Proof.Machine

/-- The ratios an exact train is made of, one for each pair. -/
def trainRatios (d : Definition) (withSync : Bool) (bits : List Bool) : List Ratio :=
  (if withSync then [d.sync] else []) ++ bits.map (symbolRatio d)

theorem exactTrain_eq_flatMap (d : Definition) (withSync : Bool) (bits : List Bool) :
    exactTrain d withSync bits = (trainRatios d withSync bits).flatMap (exactPair d) := by
  unfold exactTrain trainRatios
  rw [List.flatMap_append, List.flatMap_map]
  cases withSync with
  | true => rw [if_pos rfl, if_pos rfl, List.flatMap_singleton]
  | false => rw [if_neg Bool.false_ne_true, if_neg Bool.false_ne_true, List.flatMap_nil]

theorem length_flatMap_exactPair (d : Definition) (rs : List Ratio) : (rs.flatMap (exactPair d)).length = 2 * rs.length := by
  induction rs with
  | nil => rfl
  | cons r rs ih =>
    rw [List.flatMap_cons, List.length_append, ih, List.length_cons]
    simp only [exactPair, List.length_cons, List.length_nil]
    omega

/-- Pair `j` of a train of pairs. -/
theorem drop_flatMap_exactPair (d : Definition) (rs : List Ratio) (j : Nat) :
    (rs.flatMap (exactPair d)).drop (2 * j) = (rs.drop j).flatMap (exactPair d) := by
  induction j generalizing rs with
  | zero => rfl
  | succ j ih =>
    cases rs with
    | nil => simp only [List.flatMap_nil, List.drop_nil]
    | cons r rs =>
      rw [Nat.mul_succ, List.drop_succ_cons, ← ih rs]
      rfl

/-- The pair at cursor `c` has exactly the durations of ratio `r`, the first at the active level. -/
structure Train.PairAt (t : Train) (d : Definition) (c : Nat) (r : Ratio) : Prop where
  high : t.pulse c = ⟨BitVec.ofNat 15 (expectedDuration r.high d.base), activeLevel d⟩
  low : t.pulse (c + 1) = ⟨BitVec.ofNat 15 (expectedDuration r.low d.base), !activeLevel d⟩

/-- A buffer that holds a train has the train's pulses below PCOUNT. -/
theorem HoldsTrain_pulse (b : Block) (train : List Pulse) (h : b.HoldsTrain train) (hcap : train.length ≤ 128) (i : Nat) (p : Pulse)
    (hp : train[i]? = some p) : b.train.pulse i = p := by
  obtain ⟨hi, rfl⟩ := List.getElem?_eq_some_iff.mp hp
  have hi' : i < 128 := by omega
  rw [Train_pulse_eq_getElem _ i hi', ← h.2 i hi hi']
  rfl

theorem pairAt_of_holdsTrain (b : Block) (d : Definition) (rs : List Ratio) (h : b.HoldsTrain (rs.flatMap (exactPair d)))
    (hcap : (rs.flatMap (exactPair d)).length ≤ 128) (j : Nat) (r : Ratio) (hr : rs[j]? = some r) :
    b.train.PairAt d (2 * j) r := by
  have hdrop : (rs.flatMap (exactPair d)).drop (2 * j) = exactPair d r ++ (rs.drop (j + 1)).flatMap (exactPair d) := by
    obtain ⟨hj, rfl⟩ := List.getElem?_eq_some_iff.mp hr
    rw [drop_flatMap_exactPair, List.drop_eq_getElem_cons hj, List.flatMap_cons]
  constructor <;> apply HoldsTrain_pulse b _ h hcap
  · rw [← Nat.add_zero (2 * j), ← List.getElem?_drop, hdrop]
    rfl
  · rw [← List.getElem?_drop, hdrop]
    rfl

/-- Both expected durations of a ratio can be measured. -/
def Ratio.Measurable (r : Ratio) (base : BitVec 16) : Prop :=
  ∀ c ∈ [r.high, r.low], 1 ≤ expectedDuration c base ∧ expectedDuration c base ≤ 32767

theorem toNat_of_measurable (r : Ratio) (base : BitVec 16) (h : Ratio.Measurable r base) (c : BitVec 8) (hc : c ∈ [r.high, r.low]) :
    (BitVec.ofNat 15 (expectedDuration c base)).toNat = expectedDuration c base := by
  have hmax := (h c hc).2
  rw [BitVec.toNat_ofNat, Nat.mod_eq_of_lt (by omega)]

theorem ne_zero_of_measurable (r : Ratio) (base : BitVec 16) (h : Ratio.Measurable r base) (c : BitVec 8) (hc : c ∈ [r.high, r.low]) :
    BitVec.ofNat 15 (expectedDuration c base) ≠ 0 := by
  have hmin := (h c hc).1
  intro hzero
  have hnat : (0 : BitVec 15).toNat = expectedDuration c base := hzero ▸ toNat_of_measurable r base h c hc
  exact absurd hnat (Nat.ne_of_lt hmin)

/-- An exact duration is in tolerance of itself when the tolerance is above 0 (40_matcher.md R73). -/
theorem inTolerance_self (m : BitVec 15) (e : Nat) (tol : BitVec 8) (widen : Bool) (hm : m.toNat = e) (he : 1 ≤ e) (htol : 0 < tol.toNat) :
    inTolerance m e tol widen = true := by
  have hpos : 0 < effectiveTolerance tol widen := by
    cases widen with
    | true => rw [effectiveTolerance_widened]; omega
    | false => exact htol
  rw [inTolerance_eq_true, hm, absDiff_of_le e e le_rfl, Nat.sub_self, Nat.zero_mul]
  exact Nat.mul_pos he hpos

theorem acceptsExact_self (d : Definition) (r : Ratio) (widen : Bool) (h : Ratio.Measurable r d.base) (htol : 0 < d.tol.toNat) :
    acceptsExact d r r widen = true := by
  have hhigh : r.high ∈ [r.high, r.low] := List.mem_cons_self
  have hlow : r.low ∈ [r.high, r.low] := List.mem_cons_of_mem _ List.mem_cons_self
  exact (matchPair_eq_true_iff _ _ _ _ _ _ _).mpr
    ⟨inTolerance_self _ _ _ _ (toNat_of_measurable r _ h _ hhigh) (h _ hhigh).1 htol,
      .inr (inTolerance_self _ _ _ _ (toNat_of_measurable r _ h _ hlow) (h _ hlow).1 htol)⟩

/-- At an exact pair the matcher answers what it answers on the exact durations: its low is not missing. -/
theorem pairMatches_of_pairAt (d : Definition) (t : Train) (c : Nat) (r q : Ratio) (widen aml : Bool) (hpair : t.PairAt d c r)
    (h : Ratio.Measurable r d.base) : pairMatches d t c q widen aml = acceptsExact d r q widen := by
  rw [pairMatches, hpair.high, hpair.low]
  exact matchPair_of_low_present _ _ _ _ _ _ _ (ne_zero_of_measurable r d.base h r.low (List.mem_cons_of_mem _ List.mem_cons_self))

/-- An exact pair of a symbol is read as that symbol, an exact one because it is not accepted as a zero. -/
theorem symbolAt_of_pairAt (d : Definition) (t : Train) (l c : Nat) (bit : Bool) (hpair : t.PairAt d c (symbolRatio d bit))
    (h : Ratio.Measurable (symbolRatio d bit) d.base) (htol : 0 < d.tol.toNat)
    (hone : ∀ widen, acceptsExact d d.one d.zero widen = false) : symbolAt d t l c = some bit := by
  have hself := acceptsExact_self d _ (widenAt c) h htol
  cases bit with
  | false =>
    rw [symbolAt_eq_zero_iff, pairMatches_of_pairAt d t c d.zero d.zero _ _ hpair h]
    exact hself
  | true =>
    rw [symbolAt_eq_one_iff, pairMatches_of_pairAt d t c d.one d.zero _ _ hpair h,
      pairMatches_of_pairAt d t c d.one d.one _ _ hpair h]
    exact ⟨hone _, hself⟩

theorem measurable_of_mem_trainRatios (d : Definition) (withSync : Bool) (bits : List Bool) (h : DurationsMeasurable d) (r : Ratio)
    (hr : r ∈ trainRatios d withSync bits) : Ratio.Measurable r d.base := by
  refine h r ?_
  unfold trainRatios at hr
  obtain hsync | hsymbol := List.mem_append.mp hr
  · cases withSync with
    | true => exact List.mem_singleton.mp hsync ▸ List.mem_cons_self
    | false => cases hsync
  · obtain ⟨bit, -, rfl⟩ := List.mem_map.mp hsymbol
    cases bit <;> simp [symbolRatio]

/-- What is known of the train of an exact pattern once it is in the buffer: its length, and its pairs. -/
structure Train.IsExact (t : Train) (d : Definition) (rs : List Ratio) : Prop where
  length : t.n = 2 * rs.length
  measurable : ∀ r ∈ rs, Ratio.Measurable r d.base
  pair : ∀ j r, rs[j]? = some r → t.PairAt d (2 * j) r

/-- The last pulse of an exact train is a low that is there, so every pulse is usable. -/
theorem lastUsable_of_isExact (d : Definition) (t : Train) (rs : List Ratio) (ht : t.IsExact d rs) (hne : rs ≠ []) :
    lastUsable d t = 2 * rs.length - 1 := by
  have hpos : 0 < rs.length := List.length_pos_iff.mpr hne
  obtain ⟨r, hr⟩ : ∃ r, rs[rs.length - 1]? = some r := ⟨_, List.getElem?_eq_getElem (by omega)⟩
  have hmeasurable := ht.measurable r (List.mem_of_getElem? hr)
  have hindex : t.n - 1 = 2 * (rs.length - 1) + 1 := by
    have hn := ht.length
    omega
  rw [lastUsable_of_no_gap d t, ht.length]
  right
  rw [hindex, (ht.pair _ r hr).low]
  exact ne_zero_of_measurable r d.base hmeasurable r.low (List.mem_cons_of_mem _ List.mem_cons_self)

/-- The symbol loop starts behind the sync pair when there is one, and at the first pair when that is not accepted as a sync. -/
theorem firstCursor_of_isExact (d : Definition) (t : Train) (rs : List Ratio) (r : Ratio) (ht : t.IsExact d (r :: rs)) :
    firstCursor d t = if acceptsExact d r d.sync true then 2 else 0 := by
  have hpair : t.PairAt d 0 r := ht.pair 0 r rfl
  have halign : alignCursor (activeLevel d) t = 0 := alignCursor_of_active _ t (by rw [hpair.high])
  rw [firstCursor, halign, syncCursor,
    pairMatches_of_pairAt d t 0 r d.sync true false hpair (ht.measurable r List.mem_cons_self)]

theorem firstCursor_of_exactTrain (d : Definition) (t : Train) (withSync : Bool) (bits : List Bool)
    (ht : t.IsExact d (trainRatios d withSync bits)) (hne : trainRatios d withSync bits ≠ []) (htol : 0 < d.tol.toNat)
    (hsync : withSync = false → ∀ b, bits.head? = some b → acceptsExact d (symbolRatio d b) d.sync true = false) :
    firstCursor d t = if withSync then 2 else 0 := by
  cases withSync with
  | true =>
    have haccept := acceptsExact_self d d.sync true (ht.measurable d.sync List.mem_cons_self) htol
    rw [firstCursor_of_isExact d t _ d.sync ht, haccept]
  | false =>
    cases bits with
    | nil => exact absurd rfl hne
    | cons b bs => rw [firstCursor_of_isExact d t _ (symbolRatio d b) ht, hsync rfl b rfl]

theorem length_trainRatios (d : Definition) (withSync : Bool) (bits : List Bool) :
    (trainRatios d withSync bits).length = (if withSync then 1 else 0) + bits.length := by
  cases withSync <;> simp [trainRatios, Nat.add_comm]

theorem trainRatios_getElem? (d : Definition) (withSync : Bool) (bits : List Bool) (j : Nat) (hj : j < bits.length) :
    (trainRatios d withSync bits)[(if withSync then 1 else 0) + j]? = some (symbolRatio d bits[j]) := by
  cases withSync <;> simp [trainRatios, Nat.add_comm 1, hj]

/-- TRY on an exact train answers its pattern. -/
theorem tryDefinition_of_exactTrain (d : Definition) (t : Train) (withSync : Bool) (bits : List Bool)
    (ht : t.IsExact d (trainRatios d withSync bits)) (hmin : 16 ≤ t.n) (hcap : t.n ≤ 128) (htol : 0 < d.tol.toNat)
    (hone : ∀ widen, acceptsExact d d.one d.zero widen = false)
    (hsync : withSync = false → ∀ b, bits.head? = some b → acceptsExact d (symbolRatio d b) d.sync true = false) :
    tryDefinition d t = some ⟨bits.length, BitVec.ofNat 64 (msbValue bits)⟩ := by
  have hn := ht.length
  have hlength := length_trainRatios d withSync bits
  have hne : trainRatios d withSync bits ≠ [] := by
    rw [← List.length_pos_iff]
    omega
  have hfirst := firstCursor_of_exactTrain d t withSync bits ht hne htol hsync
  have hlast := lastUsable_of_isExact d t _ ht hne
  have hcursor : firstCursor d t = 2 * (if withSync then 1 else 0) := by
    rw [hfirst]
    cases withSync <;> rfl
  have hfits : msbValue bits < 2 ^ 64 := (msbValue_lt bits).trans_le (Nat.pow_le_pow_right (by omega) (by omega))
  refine (tryIsTheSymbolWalk d t _ hmin hcap).mpr ⟨bits, by omega, fun j hj => ?_, rfl, ?_⟩
  · have hratio := trainRatios_getElem? d withSync bits j hj
    rw [hcursor, ← Nat.mul_add]
    exact symbolAt_of_pairAt d t _ _ _ (ht.pair _ _ hratio) (ht.measurable _ (List.mem_of_getElem? hratio)) htol hone
  · rw [BitVec.toNat_ofNat, Nat.mod_eq_of_lt hfits]

/-- A buffer that holds the train of a pattern gives DECODE that exact train. -/
theorem isExact_of_holdsTrain (b : Block) (d : Definition) (withSync : Bool) (bits : List Bool) (hdur : DurationsMeasurable d)
    (hcap : (exactTrain d withSync bits).length ≤ 128) (h : b.HoldsTrain (exactTrain d withSync bits)) :
    b.train.IsExact d (trainRatios d withSync bits) := by
  rw [exactTrain_eq_flatMap] at h hcap
  exact ⟨h.1.trans (length_flatMap_exactPair d _), measurable_of_mem_trainRatios d withSync bits hdur,
    pairAt_of_holdsTrain b d _ h hcap⟩

/-- Settles O27: TRY answers the pattern, and the definition is the first of the registry. -/
theorem exactTrainDecodes : Obligations.ExactTrainDecodes := by
  unfold Obligations.ExactTrainDecodes
  intro s d others withSync bits hreg hfam htol hdur hone hsync hmin hcap hholds
  have hexact := isExact_of_holdsTrain s.block d withSync bits hdur hcap hholds
  have hn : s.block.pcount.toNat = (exactTrain d withSync bits).length := hholds.1
  have hmin' : 16 ≤ s.block.pcount.toNat := hn ▸ hmin
  have hcap' : s.block.pcount.toNat ≤ 128 := hn ▸ hcap
  have htry := tryDefinition_of_exactTrain d s.block.train withSync bits hexact hmin' hcap' htol hone hsync
  exact decodeFirstMatchWins s [] others d _ hmin' hcap' hreg (fun _ he => absurd he List.not_mem_nil) hfam htry

end Sys2Proof.Machine
end

section
/-! The address map and the script triples in both directions (20_memory.md R33 to R35, R39, 30_encoding.md R64). -/

namespace Sys2Proof

theorem le_of_locateScalar_eq_none (n : Nat) (h : locateScalar n = none) : 13 ≤ n := by
  by_contra hlt
  interval_cases n <;> cases h

theorem le_of_locateLog_eq_none (i : Fin 20) (j : Nat) (h : locateLog i j = none) : 5 ≤ j := by
  by_contra hlt
  interval_cases j <;> cases h

theorem le_of_locateRegistry_eq_none (k : Fin 128) (j : Nat) (h : locateRegistry k j = none) : 3 ≤ j := by
  by_contra hlt
  interval_cases j <;> cases h

/-- A word without a name is in a reserved range of its part of the map (20_memory.md R35). -/
theorem reservedWord_of_locate_eq_none (a : BusAddr) (h : locate a = none) : Machine.ReservedWord a.toNat := by
  unfold locate at h
  unfold Machine.ReservedWord
  split at h
  · have := le_of_locateScalar_eq_none _ h
    omega
  split at h
  · cases h
  split at h
  · omega
  split at h
  · have := le_of_locateLog_eq_none _ _ h
    omega
  split at h
  · omega
  · have := le_of_locateRegistry_eq_none _ _ h
    omega

theorem regAddr_of_locate (a : BusAddr) (r : Reg) (h : locate a = some r) : regAddr r = a := by
  have hoffset := regOffset_of_locate a r h
  have haddr := four_mul_regAddr r
  exact BitVec.eq_of_toNat_eq (by omega)

/-- Settles O6: a named word's offset is four times its address in both directions, and the ranges without a name are the reserved ones. -/
theorem windowMapIsInverse : Obligations.WindowMapIsInverse := by
  unfold Obligations.WindowMapIsInverse
  exact ⟨locate_regAddr, regAddr_of_locate, fun a => ⟨reservedWord_of_locate_eq_none a, Machine.locate_reservedWord a⟩⟩

/-- The port carries exactly the byte offsets that are four times a word address (20_memory.md R39). -/
theorem offsetToAddr_eq_ok_iff (o : Nat) (a : BusAddr) : offsetToAddr o = .ok a ↔ o = 4 * a.toNat := by
  have ha := a.isLt
  unfold offsetToAddr
  split
  next hmis => exact iff_of_false (by simp) (by omega)
  next haligned =>
    split
    next hout => exact iff_of_false (by simp) (by omega)
    next hin =>
      rw [Except.ok.injEq, ← BitVec.toNat_inj, BitVec.toNat_ofNat]
      omega

/-- Settles O7: the offset is the address's, and the data is there exactly for a write. -/
theorem scriptTripleRoundTrip : Obligations.ScriptTripleRoundTrip := by
  unfold Obligations.ScriptTripleRoundTrip
  rintro ⟨we, o, data⟩ e
  unfold tripleToEvent
  constructor
  · intro h
    cases ho : offsetToAddr o with
    | error err =>
      rw [ho] at h
      cases h
    | ok a =>
      obtain rfl := (offsetToAddr_eq_ok_iff o a).mp ho
      rw [ho] at h
      cases we <;> cases data <;> cases h <;> rfl
  · intro h
    cases e with
    | hardReset => cases h
    | read a | write a v =>
      cases h
      rw [(offsetToAddr_eq_ok_iff _ a).mpr rfl]
      rfl

end Sys2Proof
end

section
/-! What a write to a word of the window stores and what it leaves (20_memory.md R37, R41, 30_encoding.md R55, R56, R62). -/

namespace Sys2Proof.Machine

-- What is stored

theorem regAddr_ne_zero (r : Reg) (h : r ≠ .cmd) : regAddr r ≠ 0 := by
  rw [ne_eq, ← locate_eq_cmd_iff, locate_regAddr, Option.some.injEq]
  exact h

theorem writeWord_regAddr (b : Block) (r : Reg) (v : Word) : writeWord b (regAddr r) v = writeReg b r v := by
  rw [writeWord, locate_regAddr]

/-- A write to a named word other than CMD (20_memory.md R37). -/
theorem step_write_reg (s : State) (r : Reg) (v : Word) (rest : List HostEvent) (hr : r ≠ .cmd)
    (h : s.script = .write (regAddr r) v :: rest) :
    step s = .next { s with script := rest, block := writeReg s.block r v } := by
  rw [step_write_other s _ v rest (regAddr_ne_zero r hr) h, writeWord_regAddr]

theorem setWidth_eq_ofNat_mod {n : Nat} (v : Word) : v.setWidth n = BitVec.ofNat n (v.toNat % 2 ^ n) := by
  apply BitVec.eq_of_toNat_eq
  rw [BitVec.toNat_setWidth, BitVec.toNat_ofNat, Nat.mod_mod]

/-- Writing the low half keeps the high half (30_encoding.md R62). -/
theorem joinHalves_low (x : Wide) (v : Word) :
    joinHalves (hiHalf x) v = BitVec.ofNat 64 (x.toNat / 2 ^ 32 * 2 ^ 32 + v.toNat) := by
  apply BitVec.eq_of_toNat_eq
  rw [joinHalves_toNat, hiHalf_toNat, BitVec.toNat_ofNat]
  omega

/-- Writing the high half keeps the low half (30_encoding.md R62). -/
theorem joinHalves_high (x : Wide) (v : Word) :
    joinHalves v (loHalf x) = BitVec.ofNat 64 (v.toNat * 2 ^ 32 + x.toNat % 2 ^ 32) := by
  apply BitVec.eq_of_toNat_eq
  rw [joinHalves_toNat, loHalf_toNat, BitVec.toNat_ofNat]
  omega

/-- The pulse in 16 bits of a word (30_encoding.md R55). -/
theorem halfToPulse_extract (v : Word) (k : Nat) :
    halfToPulse (v.extractLsb' k 16) = ⟨BitVec.ofNat 15 (v.toNat / 2 ^ k % 2 ^ 15), v.getLsbD (k + 15)⟩ := by
  have hdur : (v.extractLsb' k 16).extractLsb' 0 15 = BitVec.ofNat 15 (v.toNat / 2 ^ k % 2 ^ 15) := by
    apply BitVec.eq_of_toNat_eq
    simp only [extract_toNat, BitVec.toNat_ofNat]
    omega
  have hlvl : (v.extractLsb' k 16).getLsbD 15 = v.getLsbD (k + 15) := by
    rw [BitVec.getLsbD_extractLsb', decide_eq_true (by omega), Bool.true_and]
  rw [halfToPulse, hdur, hlvl]

theorem wordToEvenPulse_eq (v : Word) : wordToEvenPulse v = ⟨BitVec.ofNat 15 (v.toNat % 2 ^ 15), v.getLsbD 15⟩ := by
  rw [wordToEvenPulse, halfToPulse_extract, pow_zero, Nat.div_one]

theorem wordToOddPulse_eq (v : Word) : wordToOddPulse v = ⟨BitVec.ofNat 15 (v.toNat / 2 ^ 16 % 2 ^ 15), v.getLsbD 31⟩ :=
  halfToPulse_extract v 16

/-- Settles O13: the step writes the named word, and each word's bits as numbers. -/
theorem writeStoresTheNamedBits : Obligations.WriteStoresTheNamedBits := by
  unfold Obligations.WriteStoresTheNamedBits
  intro s v rest
  have hstep (r : Reg) (hr : r ≠ .cmd) (h : s.script = .write (regAddr r) v :: rest) := step_write_reg s r v rest hr h
  refine ⟨fun h => ?_, fun h => ?_, fun h => ?_, fun h => ?_, fun h => ?_, fun h => ?_, fun w h => ?_⟩
  · rw [hstep .pcount (by simp) h, writeReg, setWidth_eq_ofNat_mod]
  · rw [hstep .argBits (by simp) h, writeReg, setWidth_eq_ofNat_mod]
  · rw [hstep .timeLo (by simp) h, writeReg, joinHalves_low]
  · rw [hstep .timeHi (by simp) h, writeReg, joinHalves_high]
  · rw [hstep .argValLo (by simp) h, writeReg, joinHalves_low]
  · rw [hstep .argValHi (by simp) h, writeReg, joinHalves_high]
  · rw [hstep (.pulse w) (by simp) h, writeReg, wordToEvenPulse_eq, wordToOddPulse_eq]
    rfl

-- What is left

/-- The PULSE words do not overlap (30_encoding.md R56). -/
theorem readReg_pulse_setPulsePair (reg : List Definition) (b : Block) (w w' : Fin 64) (p q : Pulse) (h : w ≠ w') :
    readReg reg (b.setPulsePair w p q) (.pulse w') = readReg reg b (.pulse w') := by
  have hne : w.val ≠ w'.val := Fin.val_ne_of_ne h
  have heven : (b.setPulsePair w p q).pulses[2 * w'.val] = b.pulses[2 * w'.val] := by
    rw [Block_setPulsePair_getElem, if_neg (by omega), if_neg (by omega)]
  have hodd : (b.setPulsePair w p q).pulses[2 * w'.val + 1] = b.pulses[2 * w'.val + 1] := by
    rw [Block_setPulsePair_getElem, if_neg (by omega), if_neg (by omega)]
  simp only [readReg, heven, hodd]

/-- A write to one named word leaves every other named word (20_memory.md R37, R41): the only words that share a field are the two halves of a
pair and the two slots of a pulse word. -/
theorem readReg_writeReg_of_ne (reg : List Definition) (b : Block) (r r' : Reg) (v : Word) (h : r ≠ r') :
    readReg reg (writeReg b r v) r' = readReg reg b r' := by
  cases r with
  | pcount => cases r' with
    | pcount => exact absurd rfl h
    | _ => rfl
  | argBits => cases r' with
    | argBits => exact absurd rfl h
    | _ => rfl
  | timeLo => cases r' with
    | timeLo => exact absurd rfl h
    | timeHi => exact hiHalf_joinHalves _ _
    | _ => rfl
  | timeHi => cases r' with
    | timeHi => exact absurd rfl h
    | timeLo => exact loHalf_joinHalves _ _
    | _ => rfl
  | argValLo => cases r' with
    | argValLo => exact absurd rfl h
    | argValHi => exact hiHalf_joinHalves _ _
    | _ => rfl
  | argValHi => cases r' with
    | argValHi => exact absurd rfl h
    | argValLo => exact loHalf_joinHalves _ _
    | _ => rfl
  | pulse w => cases r' with
    | pulse w' => exact readReg_pulse_setPulsePair reg b w w' _ _ fun hw => h (congrArg Reg.pulse hw)
    | _ => rfl
  | _ => rfl

theorem readWord_writeWord_of_ne (reg : List Definition) (b : Block) (a a' : BusAddr) (v : Word) (h : a' ≠ a) :
    readWord reg (writeWord b a v) a' = readWord reg b a' := by
  unfold readWord writeWord
  cases ha : locate a with
  | none => rfl
  | some r =>
    cases ha' : locate a' with
    | none => rfl
    | some r' =>
      refine readReg_writeReg_of_ne reg b r r' v ?_
      rintro rfl
      exact h ((regAddr_of_locate a' r ha').symm.trans (regAddr_of_locate a r ha))

/-- The bytes of every other word (20_memory.md R38, R41). -/
theorem readByte_writeWord_of_ne (reg : List Definition) (b : Block) (a : BusAddr) (v : Word) (o : Nat) (h : o / 4 ≠ a.toNat) :
    readByte reg (writeWord b a v) o = readByte reg b o := by
  unfold readByte
  split
  next hin =>
    rw [readWord_writeWord_of_ne]
    rintro rfl
    rw [BitVec.toNat_ofNat] at h
    omega
  next => rfl

/-- Settles O14: a write changes PCOUNT, TIME, ARG and the pulses alone, and of the window's bytes those of its own word alone. -/
theorem writeLeavesOtherBytes : Obligations.WriteLeavesOtherBytes := by
  unfold Obligations.WriteLeavesOtherBytes
  intro s a v rest ha h
  have hbytes (o : Nat) (ho : o / 4 ≠ a.toNat) := readByte_writeWord_of_ne s.registry s.block a v o ho
  obtain ⟨_, _, _, _, _, hframe⟩ := writeWord_frame s.block a v
  refine ⟨_, step_write_other s a v rest ha h, rfl, rfl, rfl, ?_, ?_, ?_, ?_, ?_, ?_, ?_, hbytes⟩ <;> rw [hframe]

end Sys2Proof.Machine
end

section
/-! Transfers in a row: a registry entry read back, the two halves of a pair, LOADP, and the end of a script (30_encoding.md R57, R65,
70_reset_and_hazards.md R138). -/

namespace Sys2Proof.Machine

theorem run_readLine (n : Nat) (s : State) (r : Reg) (rest : List HostEvent) (h : s.script = readLine r :: rest) :
    Host.Core.run core (n + 1) s =
      Host.Core.run core n ({ s with script := rest, returned := s.returned ++ [readReg s.registry s.block r] } : State) := by
  rw [← readWord_of_locate s.registry s.block _ r (locate_regAddr r)]
  exact run_succ_of_step n s _ (step_read s _ rest h)

theorem run_writeLine (n : Nat) (s : State) (r : Reg) (v : Word) (rest : List HostEvent) (hr : r ≠ .cmd)
    (h : s.script = writeLine r v :: rest) :
    Host.Core.run core (n + 1) s =
      Host.Core.run core n ({ s with script := rest, block := writeReg s.block r v } : State) :=
  run_succ_of_step n s _ (step_write_reg s r v rest hr h)

theorem registryWord_of_getElem? (reg : List Definition) (k : Fin 128) (f : Definition → Word) (d : Definition)
    (h : reg[k.val]? = some d) : registryWord reg k f = f d := by
  rw [registryWord, h]

/-- Settles O15: each read returns its word of entry `k`, and the three words are read as the entry. -/
theorem registryReadsBackThroughTheWindow : Obligations.RegistryReadsBackThroughTheWindow := by
  unfold Obligations.RegistryReadsBackThroughTheWindow
  intro s k d hd
  have hword (f : Definition → Word) := registryWord_of_getElem? s.registry k f d hd
  refine ⟨{ s with script := [], returned := s.returned ++ [definitionWord0 d, definitionWord1 d, definitionWord2 d] },
    _, _, _, ?_, rfl, rfl, wordsToDefinition_definitionWords d⟩
  rw [run_readLine 2 _ (.regW0 k) _ rfl, run_readLine 1 _ (.regW1 k) _ rfl, run_readLine 0 _ (.regW2 k) _ rfl, run_zero]
  simp only [readReg, hword, List.append_assoc, List.cons_append, List.nil_append]

/-- Both halves of a pair, the low one first, whatever stood there. -/
theorem joinHalves_both (x y : Wide) : joinHalves (hiHalf x) (loHalf (joinHalves (hiHalf y) (loHalf x))) = x := by
  rw [loHalf_joinHalves, joinHalves_halves]

/-- Settles O16: the second write joins the halves; after the first the register holds the new low half and the old high one. -/
theorem writePairIsTwoHalves : Obligations.WritePairIsTwoHalves := by
  unfold Obligations.WritePairIsTwoHalves
  intro s v
  refine ⟨?_, ?_, _, step_write_reg _ .timeLo (loHalf v) _ (by simp) rfl, ?_⟩
  · rw [run_writeLine 1 _ .timeLo _ _ (by simp) rfl, run_writeLine 0 _ .timeHi _ _ (by simp) rfl, run_zero]
    simp only [writeReg, joinHalves_both]
  · rw [run_writeLine 1 _ .argValLo _ _ (by simp) rfl, run_writeLine 0 _ .argValHi _ _ (by simp) rfl, run_zero]
    simp only [writeReg, joinHalves_both]
  · rw [writeReg, joinHalves_toNat, hiHalf_toNat, loHalf_toNat]

-- LOADP

/-- The buffer after the PULSE writes of a train from word `w` on, slot by slot: the train, the zero pulse in the slot a train of odd length
leaves open, and the old pulses around them (30_encoding.md R65). -/
def pulseAfter (old : Vector Pulse 128) (w : Nat) (train : List Pulse) (i : Nat) (h : i < 128) : Pulse :=
  if i < 2 * w then old[i]
  else if ht : i - 2 * w < train.length then train[i - 2 * w]
  else if i - 2 * w = train.length ∧ train.length % 2 = 1 then missingPulse
  else old[i]

theorem pulseAfter_train (old : Vector Pulse 128) (train : List Pulse) (i : Nat) (h : i < 128) (hi : i < train.length) :
    pulseAfter old 0 train i h = train[i] := by
  simp [pulseAfter, hi]

theorem pulseAfter_open_slot (old : Vector Pulse 128) (train : List Pulse) (h : train.length < 128) (hodd : train.length % 2 = 1) :
    pulseAfter old 0 train train.length h = ⟨0, false⟩ := by
  simp [pulseAfter, hodd, missingPulse, halfToPulse]

theorem pulseAfter_later (old : Vector Pulse 128) (train : List Pulse) (i : Nat) (h : i < 128) (hi : 2 * ((train.length + 1) / 2) ≤ i) :
    pulseAfter old 0 train i h = old[i] := by
  have hlen : ¬ i < train.length := by omega
  have hopen : ¬ (i = train.length ∧ train.length % 2 = 1) := by omega
  simp [pulseAfter, hlen, hopen]

theorem pulse_write_eq_writeLine (w : Fin 64) (v : Word) : HostEvent.write (BitVec.ofNat 10 (0x40 + w)) v = writeLine (.pulse w) v := by
  rw [writeLine, regAddr, regOffset, show (0x100 + 4 * w.val) / 4 = 0x40 + w.val by omega]

/-- One PULSE write of a run. -/
theorem run_pulse_write (n : Nat) (s : State) (w : Nat) (hw : w < 64) (p q : Pulse) (rest : List HostEvent)
    (h : s.script = .write (BitVec.ofNat 10 (0x40 + w)) (pulsesToWord p q) :: rest) :
    Host.Core.run core (n + 1) s =
      Host.Core.run core n ({ s with script := rest, block := s.block.setPulsePair ⟨w, hw⟩ p q } : State) := by
  rw [run_writeLine n s (.pulse ⟨w, hw⟩) (pulsesToWord p q) rest (by simp) (h.trans (by rw [← pulse_write_eq_writeLine])), writeReg,
    wordToEvenPulse_pulsesToWord, wordToOddPulse_pulsesToWord]

/-- The PULSE writes of LOADP, run from any state, change the pulse buffer alone. -/
theorem run_pulseWrites (w : Nat) (train : List Pulse) (s : State) (rest : List HostEvent) (hw : 2 * w + train.length ≤ 128)
    (h : s.script = pulseWrites w train ++ rest) :
    ∃ P : Vector Pulse 128, Host.Core.run core (pulseWrites w train).length s
        = .next ({ s with script := rest, block := { s.block with pulses := P } } : State) ∧
      ∀ i (hi : i < 128), P[i] = pulseAfter s.block.pulses w train i hi := by
  induction w, train using pulseWrites.induct generalizing s with
  | case1 w =>
    refine ⟨s.block.pulses, ?_, fun i hi => ?_⟩
    · rw [← show s.script = rest from h]
      rfl
    · simp [pulseAfter]
  | case2 w p =>
    have hw64 : w < 64 := by
      rw [List.length_singleton] at hw
      omega
    refine ⟨(s.block.setPulsePair ⟨w, hw64⟩ p missingPulse).pulses, ?_, fun i hi => ?_⟩
    · rw [pulseWrites, List.length_singleton, run_pulse_write 0 s w hw64 p missingPulse rest h]
      rfl
    · rw [Block_setPulsePair_getElem, pulseAfter]
      grind
  | case3 w p q train ih =>
    have hlen : 2 * (w + 1) + train.length ≤ 128 := by
      rw [List.length_cons, List.length_cons] at hw
      omega
    have hw64 : w < 64 := by omega
    obtain ⟨P, hrun, hP⟩ := ih { s with script := pulseWrites (w + 1) train ++ rest, block := s.block.setPulsePair ⟨w, hw64⟩ p q }
      hlen rfl
    refine ⟨P, ?_, fun i hi => ?_⟩
    · rw [pulseWrites, List.length_cons, run_pulse_write _ s w hw64 p q _ h]
      exact hrun
    · rw [hP, pulseAfter, pulseAfter, Block_setPulsePair_getElem]
      grind

/-- Settles O17: the PULSE writes from word 0 on, then the write of PCOUNT. -/
theorem loadpLoadsTheTrain : Obligations.LoadpLoadsTheTrain := by
  unfold Obligations.LoadpLoadsTheTrain
  intro s train hlen
  obtain ⟨P, hrun, hP⟩ := run_pulseWrites 0 train { s with script := pulseWrites 0 train ++ [writeLine .pcount (BitVec.ofNat 32 train.length)] }
    [writeLine .pcount (BitVec.ofNat 32 train.length)] (by omega) rfl
  refine ⟨pulseWrites 0 train ++ [writeLine .pcount (BitVec.ofNat 32 train.length)],
    { s with script := [], block := { s.block with pulses := P, pcount := BitVec.ofNat 8 train.length } },
    if_neg (not_lt.mpr hlen), ?_, ⟨?_, fun i hi hi' => ?_⟩, fun i hi hlate => ?_, fun hi hodd => ?_, rfl⟩
  · have hcount : (BitVec.ofNat 32 train.length).setWidth 8 = BitVec.ofNat 8 train.length := by
      apply BitVec.eq_of_toNat_eq
      rw [BitVec.toNat_setWidth, BitVec.toNat_ofNat, BitVec.toNat_ofNat]
      omega
    rw [List.length_append, List.length_singleton, run_append _ 1 _ _ hrun, run_writeLine 0 _ .pcount _ [] (by simp) rfl, run_zero,
      writeReg, hcount]
  · rw [BitVec.toNat_ofNat, Nat.mod_eq_of_lt (by omega)]
  · exact (hP i hi').trans (pulseAfter_train _ train i hi' hi)
  · exact (hP i hi).trans (pulseAfter_later _ train i hi hlate)
  · exact (hP _ hi).trans (pulseAfter_open_slot _ train hi hodd)

-- The end of a script

/-- The transfers that hand a word to the host. -/
def isRead (e : HostEvent) : Bool :=
  match e with
  | .read _ => true
  | .write _ _ => false
  | .hardReset => false

/-- A command hands no word to the host. -/
theorem issue_returned (w : Word) (s : State) : ∃ t, issue w s = .next t ∧ t.returned = s.returned := by
  by_cases hw : ∃ i, w = encodeWord i
  · obtain ⟨i, rfl⟩ := hw
    obtain ⟨b, hb⟩ := exec_next i s
    exact ⟨_, (issue_encodeWord i s).trans hb, rfl⟩
  · exact ⟨_, issue_illegal w s hw, rfl⟩

/-- One event hands over one word if it is a read, else none. -/
theorem perform_returned_length (e : HostEvent) (s : State) : ∃ t, perform e s = .next t ∧
    t.returned.length = s.returned.length + (isRead e).toNat := by
  cases e with
  | read a => exact ⟨_, perform_read a s, by simp [isRead]⟩
  | hardReset => exact ⟨_, perform_hardReset s, rfl⟩
  | write a v =>
    by_cases ha : a = 0
    · obtain ⟨t, ht, hret⟩ := issue_returned v s
      exact ⟨t, by rw [ha, perform_write_zero, ht], by rw [hret]; rfl⟩
    · exact ⟨_, perform_write_other a v s ha, rfl⟩

/-- A run of as many steps as the script has events takes every event. -/
theorem run_whole_script (es : List HostEvent) (s : State) (h : s.script = es) :
    ∃ t, Host.Core.run core es.length s = .next t ∧ t.script = [] ∧ t.registry = s.registry ∧
      t.returned.length = s.returned.length + (es.filter isRead).length := by
  induction es generalizing s with
  | nil => exact ⟨s, rfl, h, rfl, rfl⟩
  | cons e es ih =>
    obtain ⟨u, hu, hscript, hreg⟩ := step_next s
    obtain ⟨u', hu', hlen⟩ := perform_returned_length e { s with script := es }
    obtain rfl : u' = u := Host.Outcome.next.inj (hu'.symm.trans ((step_event s e es h).symm.trans hu))
    obtain ⟨t, ht, hend, hreg', hlen'⟩ := ih u' (by rw [hscript, h, List.tail_cons])
    refine ⟨t, (run_succ_of_step es.length s u' hu).trans ht, hend, hreg'.trans hreg, ?_⟩
    dsimp only at hlen
    rw [hlen', hlen, List.filter_cons]
    cases isRead e with
    | true => rw [if_pos rfl, List.length_cons, Bool.toNat_true]; omega
    | false => rw [if_neg Bool.false_ne_true, Bool.toNat_false, Nat.add_zero]

/-- Settles O18: the whole script run, then an idle step. -/
theorem scriptsRunToTheirEnd : Obligations.ScriptsRunToTheirEnd := by
  unfold Obligations.ScriptsRunToTheirEnd
  intro s
  obtain ⟨t, hrun, hend, hreg, hlen⟩ := run_whole_script s.script s rfl
  exact ⟨t, hrun, hend, hreg, hlen, step_idle t hend⟩

end Sys2Proof.Machine
end

section
/-! Which of its operands a decode looks at, and what a decode result always is (41_decoder.md R76, R87 to R89). -/

namespace Sys2Proof.Machine

-- What DECODE looks at

/-- Two trains that DECODE cannot tell apart (41_decoder.md R88). -/
structure Train.SameDeclared (t t' : Train) : Prop where
  n : t.n = t'.n
  dur : ∀ i < t.n, (t.pulse i).dur = (t'.pulse i).dur
  level : (t.pulse 0).lvl = (t'.pulse 0).lvl

theorem pairMatches_congr (d : Definition) (t t' : Train) (c : Nat) (r : Ratio) (widen aml : Bool) (h : t.SameDeclared t')
    (hc : c + 1 < t.n) : pairMatches d t c r widen aml = pairMatches d t' c r widen aml := by
  rw [pairMatches, pairMatches, h.dur c (by omega), h.dur (c + 1) hc]

theorem symbolAt_congr (d : Definition) (t t' : Train) (l c : Nat) (h : t.SameDeclared t') (hc : c + 1 < t.n) :
    symbolAt d t l c = symbolAt d t' l c := by
  simp only [symbolAt, pairMatches_congr d t t' c _ _ _ h hc]

/-- The loop reads the pairs below `l` alone. -/
theorem symbolLoop_congr (d : Definition) (t t' : Train) (l k c : Nat) (a : Accumulator) (h : t.SameDeclared t') (hl : l < t.n) :
    symbolLoop d t l k c a = symbolLoop d t' l k c a := by
  induction k generalizing c a with
  | zero => rfl
  | succ k ih =>
    obtain hc | hc := lt_or_ge c l
    · rw [symbolLoop_more _ _ _ _ _ _ hc, symbolLoop_more _ _ _ _ _ _ hc, symbolAt_congr d t t' l c h (by omega)]
      simp only [ih]
    · rw [symbolLoop_done _ _ _ _ _ _ hc, symbolLoop_done _ _ _ _ _ _ hc]

theorem tryDefinition_congr (d : Definition) (t t' : Train) (h : t.SameDeclared t') (hmin : 16 ≤ t.n) (hcap : t.n ≤ 128) :
    tryDefinition d t = tryDefinition d t' := by
  have hlast : lastUsable d t = lastUsable d t' := by rw [lastUsable, lastUsable, h.dur _ (by omega), h.n]
  have halign : alignCursor (activeLevel d) t = alignCursor (activeLevel d) t' := by rw [alignCursor, alignCursor, h.level]
  have hcursor : alignCursor (activeLevel d) t' ≤ 1 := by
    unfold alignCursor
    split <;> omega
  have hfirst : firstCursor d t = firstCursor d t' := by
    rw [firstCursor, firstCursor, halign, syncCursor, syncCursor, pairMatches_congr d t t' _ _ _ _ h (by omega)]
  have hbelow : lastUsable d t' < t.n := by
    have hcases := lastUsable_cases d t
    omega
  rw [tryDefinition, tryDefinition, hlast, hfirst, symbolLoop_congr d t t' _ _ _ _ h hbelow]

theorem decodeTrain_congr (reg : List Definition) (t t' : Train) (h : t.SameDeclared t') : decodeTrain reg t = decodeTrain reg t' := by
  by_cases hvalid : 16 ≤ t.n ∧ t.n ≤ 128
  · obtain ⟨hmin, hcap⟩ := hvalid
    have hattempt : attempt t = attempt t' := by
      funext d
      rw [attempt, attempt, tryDefinition_congr d t t' h hmin hcap]
    rw [decodeTrain_valid reg t hmin hcap, decodeTrain_valid reg t' (h.n ▸ hmin) (h.n ▸ hcap), hattempt]
  · have hn := h.n
    rw [decodeTrain_invalid reg t (by omega), decodeTrain_invalid reg t' (by omega)]

/-- The four result fields depend on the decode result alone. -/
theorem setResult_result_congr (b b' : Block) (r : Option Decoded) :
    (b.setResult r).matchFlag = (b'.setResult r).matchFlag ∧ (b.setResult r).resId = (b'.setResult r).resId ∧
    (b.setResult r).resBits = (b'.setResult r).resBits ∧ (b.setResult r).resVal = (b'.setResult r).resVal := by
  cases r <;> exact ⟨rfl, rfl, rfl, rfl⟩

/-- Blocks that agree on PCOUNT, the durations below it and the level of P(0); no block holds a pulse outside the buffer. -/
theorem train_sameDeclared (b b' : Block) (hcount : b.pcount = b'.pcount)
    (hdur : ∀ i (h : i < 128), i < b.pcount.toNat → b.pulses[i].dur = b'.pulses[i].dur)
    (hlvl : b.pulses[0].lvl = b'.pulses[0].lvl) : b.train.SameDeclared b'.train := by
  refine ⟨congrArg BitVec.toNat hcount, fun i hi => ?_, hlvl⟩
  by_cases hi' : i < 128
  · rw [Train_pulse_eq_getElem _ i hi', Train_pulse_eq_getElem _ i hi']
    exact hdur i hi' hi
  · simp [Train.pulse, hi']

/-- Settles O28: the two trains agree wherever TRY looks, so the decode result is the same. -/
theorem decodeReadsOnlyTheDeclaredPulses : Obligations.DecodeReadsOnlyTheDeclaredPulses := by
  unfold Obligations.DecodeReadsOnlyTheDeclaredPulses
  intro s s' hreg hcount hdur hlvl
  refine ⟨_, _, exec_decode s, exec_decode s', ?_⟩
  rw [Block.runDecode, Block.runDecode, ← hreg, decodeTrain_congr _ _ _ (train_sameDeclared _ _ hcount hdur hlvl)]
  exact setResult_result_congr _ _ _

-- Registries that decode alike

/-- DECODE on a state with another registry of the same decode result. -/
theorem exec_decode_with_registry (s : State) (reg : List Definition)
    (h : decodeTrain reg s.block.train = decodeTrain s.registry s.block.train) :
    exec .decode { s with registry := reg } = .next { s with block := s.block.runDecode s.registry, registry := reg } := by
  rw [exec_decode, Block.runDecode, h]
  rfl

theorem attempt_of_reserved_family (t : Train) (d : Definition) (h : d.family ≠ 0) : attempt t d = none :=
  (attempt_eq_none_iff t d).mpr (.inl h)

/-- Entries of a reserved family contribute nothing to the scan (41_decoder.md R76). -/
theorem findSome?_attempt_filter (t : Train) (reg : List Definition) :
    (reg.filter fun d => d.family == 0).findSome? (attempt t) = reg.findSome? (attempt t) := by
  induction reg with
  | nil => rfl
  | cons d reg ih =>
    by_cases hfam : d.family = 0
    · rw [List.filter_cons_of_pos (by simpa using hfam), List.findSome?_cons, List.findSome?_cons, ih]
    · rw [List.filter_cons_of_neg (by simpa using hfam), List.findSome?_cons, attempt_of_reserved_family t d hfam, ih]

/-- Settles O29: the scan over the filtered registry finds what the scan over the whole one finds. -/
theorem nonPwmEntriesAreSkipped : Obligations.NonPwmEntriesAreSkipped := by
  unfold Obligations.NonPwmEntriesAreSkipped
  refine fun s => ⟨_, exec_decode s, exec_decode_with_registry s _ ?_⟩
  simp only [decodeTrain, findSome?_attempt_filter]

/-- A match is found before the scan reaches what is appended (41_decoder.md R87). -/
theorem decodeTrain_append (reg more : List Definition) (t : Train) (h : (decodeTrain reg t).isSome) :
    decodeTrain (reg ++ more) t = decodeTrain reg t := by
  unfold decodeTrain at h ⊢
  split at h
  next hvalid => rw [if_pos hvalid, if_pos hvalid, List.findSome?_append, Option.or_of_isSome h]
  next => cases h

/-- Settles O30: MATCH says that the decode result is there, and appending keeps such a result. -/
theorem appendedDefinitionsKeepMatches : Obligations.AppendedDefinitionsKeepMatches := by
  unfold Obligations.AppendedDefinitionsKeepMatches
  refine fun s more => ⟨_, exec_decode s, fun hmatch => exec_decode_with_registry s _ (decodeTrain_append _ _ _ ?_)⟩
  rw [← Block_setResult_matchFlag s.block]
  exact hmatch

-- What a decode result always is

theorem ResultOk_bounds (b : Block) (reg : List Definition) (h : b.ResultOk reg) (hmatch : b.matchFlag = true) :
    6 ≤ b.resBits.toNat ∧ b.resBits.toNat ≤ 64 ∧ b.resVal.toNat < 2 ^ b.resBits.toNat := by
  rw [Block.ResultOk, if_pos hmatch] at h
  obtain ⟨hmin, hmax, hval, -⟩ := h
  exact ⟨hmin, hmax, hval⟩

/-- EVENT leaves the result of its DECODE. -/
theorem runEvent_result (b : Block) (reg : List Definition) :
    (b.runEvent reg).matchFlag = (b.runDecode reg).matchFlag ∧ (b.runEvent reg).resId = (b.runDecode reg).resId ∧
    (b.runEvent reg).resBits = (b.runDecode reg).resBits ∧ (b.runEvent reg).resVal = (b.runDecode reg).resVal := by
  unfold Block.runEvent
  split
  · obtain ⟨_, _, hframe⟩ := runChkdup_frame (b.runDecode reg).argsFromResult
    rw [hframe]
    exact ⟨rfl, rfl, rfl, rfl⟩
  · exact ⟨rfl, rfl, rfl, rfl⟩

/-- Settles O31: the result of a decode agrees with MATCH, and EVENT has the result of its DECODE. -/
theorem decodeResultBounds : Obligations.DecodeResultBounds := by
  unfold Obligations.DecodeResultBounds
  intro s
  have hbounds := ResultOk_bounds (s.block.runDecode s.registry) s.registry (setResult_decodeTrain_resultOk _ _ _)
  obtain ⟨hmatch, -, hbits, hval⟩ := runEvent_result s.block s.registry
  refine ⟨_, _, exec_decode s, exec_event s, hbounds, ?_⟩
  dsimp only
  rw [hmatch, hbits, hval]
  exact hbounds

end Sys2Proof.Machine
end

section
/-! The duplicate filter at its corners, and the one log entry it may write (42_dupfilter.md R92 to R101, 70_reset_and_hazards.md R132,
R133). -/

namespace Sys2Proof.Machine

/-- Settles O41: the number of `nowMs`, its bound, and the spec's example. -/
theorem millisecondsAreTruncated : Obligations.MillisecondsAreTruncated := by
  unfold Obligations.MillisecondsAreTruncated
  exact fun time => ⟨nowMs_toNat time, nowMs_lt time, by decide⟩

/-- Settles O43: below 1 001 000 microseconds no stored time of 0 is stale. -/
theorem firstSecondRecordsNothing : Obligations.FirstSecondRecordsNothing := by
  unfold Obligations.FirstSecondRecordsNothing
  intro s hlast htime hnew
  have hfull (j : Fin 20) : ((s.block.time.toNat / 1000 : Nat) : Int) - (s.block.log[j].last.toNat : Int) ≤ 1000 := by
    have hzero : s.block.log[j].last.toNat = 0 := by
      rw [hlast j]
      rfl
    omega
  rw [exec_chkdup, runChkdup_of_saturated s.block hnew hfull]
  rfl

/-- Settles O44: LOG[0] is the first entry that holds 0, with time 0. -/
theorem valueZeroMatchesTheResetLog : Obligations.ValueZeroMatchesTheResetLog := by
  unfold Obligations.ValueZeroMatchesTheResetLog
  intro s hlog hval
  have hzero : s.block.log[(0 : Fin 20)].val = s.block.argVal := by rw [hlog 0, hval]
  have hfound := (firstEntry_holdsValue_eq_some_iff _ _ 0).mpr ⟨hzero, fun j hj => absurd hj (Fin.not_lt_zero j)⟩
  have hdup : (!expired (nowMs s.block.time) s.block.log[(0 : Fin 20)]) = decide (s.block.time.toNat / 1000 ≤ 1000) := by
    have hlast : s.block.log[(0 : Fin 20)].last.toNat = 0 := by
      rw [hlog 0]
      rfl
    rw [not_expired_eq_decide, hlast, decide_eq_decide]
    omega
  rw [exec_chkdup, runChkdup_of_known s.block 0 hfound, hdup, nowMs_eq_msOf, hval]
  rfl

/-- Two entries the filter cannot tell apart (42_dupfilter.md R99). -/
def SameTimeAndValue (e e' : LogEntry) : Prop := e.last = e'.last ∧ e.val = e'.val

theorem setLog_sameTimeAndValue (b b' : Block) (i : Fin 20) (e e' : LogEntry) (he : SameTimeAndValue e e')
    (h : ∀ j : Fin 20, SameTimeAndValue b.log[j] b'.log[j]) (j : Fin 20) :
    SameTimeAndValue (b.setLog i e).log[j] (b'.setLog i e').log[j] := by
  rw [Block_setLog_getElem, Block_setLog_getElem]
  split
  · exact he
  · exact h j

/-- CHKDUP, branch by branch, on two blocks that differ in bit counts. -/
theorem runChkdup_sameTimeAndValue (b b' : Block) (htime : b.time = b'.time) (hval : b.argVal = b'.argVal)
    (h : ∀ j : Fin 20, SameTimeAndValue b.log[j] b'.log[j]) :
    b.runChkdup.dupFlag = b'.runChkdup.dupFlag ∧ ∀ j : Fin 20, SameTimeAndValue b.runChkdup.log[j] b'.runChkdup.log[j] := by
  have hholds : firstEntry (holdsValue b.argVal) b.log = firstEntry (holdsValue b'.argVal) b'.log :=
    firstEntry_congr _ _ _ _ fun j => by rw [holdsValue, holdsValue, (h j).2, hval]
  have hexpired (j : Fin 20) : expired (nowMs b.time) b.log[j] = expired (nowMs b'.time) b'.log[j] := by
    rw [expired, expired, (h j).1, htime]
  have hstale := firstEntry_congr _ _ _ _ hexpired
  have hwritten (bits bits' : BitVec 7) : SameTimeAndValue ⟨nowMs b.time, bits, b.argVal⟩ ⟨nowMs b'.time, bits', b'.argVal⟩ :=
    ⟨congrArg nowMs htime, hval⟩
  cases hv : firstEntry (holdsValue b.argVal) b.log with
  | some i =>
    rw [runChkdup_of_known b i hv, runChkdup_of_known b' i (hholds.symm.trans hv)]
    exact ⟨congrArg (fun stale => !stale) (hexpired i), setLog_sameTimeAndValue b b' i _ _ (hwritten _ _) h⟩
  | none =>
    have hv' := hholds.symm.trans hv
    cases hs : firstEntry (expired (nowMs b.time)) b.log with
    | some i =>
      rw [runChkdup_of_new b i hv hs, runChkdup_of_new b' i hv' (hstale.symm.trans hs)]
      exact ⟨rfl, setLog_sameTimeAndValue b b' i _ _ (hwritten _ _) h⟩
    | none =>
      have hsaturated (c : Block) (hcv : firstEntry (holdsValue c.argVal) c.log = none)
          (hcs : firstEntry (expired (nowMs c.time)) c.log = none) : c.runChkdup = c.setDup false :=
        runChkdup_of_saturated c ((firstEntry_holdsValue_eq_none_iff _ _).mp hcv) ((firstEntry_expired_eq_none_iff _ _).mp hcs)
      rw [hsaturated b hv hs, hsaturated b' hv' (hstale.symm.trans hs)]
      exact ⟨rfl, h⟩

/-- Settles O45: neither scan and neither write of a time or a value looks at a bit count. -/
theorem filterIgnoresBitCounts : Obligations.FilterIgnoresBitCounts := by
  unfold Obligations.FilterIgnoresBitCounts
  intro s s' htime hval hlog
  exact ⟨_, _, exec_chkdup s, exec_chkdup s', runChkdup_sameTimeAndValue s.block s'.block htime hval hlog⟩

-- The one log entry CHKDUP may write

theorem chkdupTarget_of_known (b : Block) (i : Fin 20) (h : firstEntry (holdsValue b.argVal) b.log = some i) :
    b.chkdupTarget = some i := by
  rw [Block.chkdupTarget, h, Option.some_or]

theorem chkdupTarget_of_new (b : Block) (h : firstEntry (holdsValue b.argVal) b.log = none) :
    b.chkdupTarget = firstEntry (expired (nowMs b.time)) b.log := by
  rw [Block.chkdupTarget, h, Option.none_or]

/-- 42_dupfilter.md R94, R96: every entry but the one the scans find keeps its value. -/
theorem runChkdup_log_of_ne_target (b : Block) (j : Fin 20) (h : b.chkdupTarget ≠ some j) : b.runChkdup.log[j] = b.log[j] := by
  have hsetLog (i : Fin 20) (e : LogEntry) (v : Bool) (hi : b.chkdupTarget = some i) : ((b.setLog i e).setDup v).log[j] = b.log[j] := by
    rw [Block_setDup_log, Block_setLog_getElem, if_neg]
    rintro rfl
    exact h hi
  obtain ⟨i, hv, hrun⟩ | ⟨hv, i, hs, hrun⟩ | ⟨-, -, hrun⟩ := runChkdup_cases b <;> rw [hrun]
  · exact hsetLog i _ _ (chkdupTarget_of_known b i hv)
  · exact hsetLog i _ _ ((chkdupTarget_of_new b hv).trans hs)
  · rfl

/-- An entry of another value whose time is ahead of now is found by neither scan. -/
theorem chkdupTarget_ne_of_ahead (b : Block) (i : Fin 20) (hval : b.log[i].val ≠ b.argVal)
    (hahead : b.time.toNat / 1000 < b.log[i].last.toNat) : b.chkdupTarget ≠ some i := by
  intro htarget
  cases hv : firstEntry (holdsValue b.argVal) b.log with
  | some k =>
    obtain rfl : k = i := Option.some.inj ((chkdupTarget_of_known b k hv).symm.trans htarget)
    exact hval ((firstEntry_holdsValue_eq_some_iff _ _ _).mp hv).1
  | none =>
    have hstale := (firstEntry_expired_eq_some_iff _ _ _).mp ((chkdupTarget_of_new b hv).symm.trans htarget)
    have hage := hstale.1
    omega

/-- Settles O46: a negative age is not above the window, so the known value is a duplicate and another value's entry is not stale. -/
theorem backwardTimeIsNeverStale : Obligations.BackwardTimeIsNeverStale := by
  unfold Obligations.BackwardTimeIsNeverStale
  constructor
  · intro s i hval hbefore hahead
    have hfound := (firstEntry_holdsValue_eq_some_iff _ _ i).mpr ⟨hval, hbefore⟩
    refine ⟨_, exec_chkdup s, ?_, ?_⟩ <;> rw [runChkdup_of_known s.block i hfound]
    · rw [Block_setDup_dupFlag, not_expired_eq_decide, decide_eq_true_eq]
      omega
    · rw [Block_setDup_log, Block_setLog_getElem, if_pos rfl, nowMs_toNat]
  · intro s i hval hahead
    exact ⟨_, exec_chkdup s, runChkdup_log_of_ne_target s.block i (chkdupTarget_ne_of_ahead s.block i hval hahead)⟩

end Sys2Proof.Machine
end

section
/-! EVENT as DECODE, the arguments, and CHKDUP (43_control.md R103). -/

namespace Sys2Proof.Machine

theorem runEvent_of_none (b : Block) (reg : List Definition) (h : decodeTrain reg b.train = none) :
    b.runEvent reg = (b.setResult none).setDup false := by
  rw [Block.runEvent, Block.runDecode, h]
  rfl

theorem runEvent_of_some (b : Block) (reg : List Definition) (r : Decoded) (h : decodeTrain reg b.train = some r) :
    b.runEvent reg = (b.setResult (some r)).argsFromResult.runChkdup := by
  rw [Block.runEvent, Block.runDecode, h]
  rfl

/-- Settles O47: each of the three premises makes the decode result empty. -/
theorem eventWithoutMatchLeavesTheFilter : Obligations.EventWithoutMatchLeavesTheFilter := by
  unfold Obligations.EventWithoutMatchLeavesTheFilter
  intro s h
  rw [exec_event, runEvent_of_none s.block s.registry ((decodeTrain_eq_none_iff _ _).mpr h)]
  rfl

/-- Settles O48: the decode result is that of the first entry that matches, and CHKDUP runs on its bit count and value. -/
theorem eventOnMatchFiltersTheResult : Obligations.EventOnMatchFiltersTheResult := by
  unfold Obligations.EventOnMatchFiltersTheResult
  intro s before after d a hmin hcap hreg hbefore hfam htry
  have hsome := decodeTrain_first_match before after d s.block.train a hmin hcap hbefore hfam htry
  refine ⟨_, exec_event s, ?_⟩
  rw [runEvent_of_some s.block s.registry _ (hreg ▸ hsome), exec_chkdup]
  rfl

/-- A run whose next event is the write of a command word. -/
theorem run_writeLine_command (n : Nat) (s : State) (i : Instr) (b : Block) (rest : List HostEvent)
    (h : s.script = writeLine .cmd (encodeWord i) :: rest)
    (hexec : exec i { s with script := rest } = .next { s with script := rest, block := b }) :
    Host.Core.run core (n + 1) s = Host.Core.run core n ({ s with script := rest, block := b } : State) := by
  refine run_succ_of_step n s _ ?_
  rw [step_event s _ rest h, writeLine, perform_write_cmd, issue_encodeWord, hexec]

theorem setWidth_setWidth_bits (k : BitVec 7) : (k.setWidth 32).setWidth 7 = k := by
  rw [BitVec.setWidth_setWidth_of_le _ (by omega), BitVec.setWidth_eq]

/-- The three argument writes of the host with the results, one after the other, are EVENT's own copy of RES into ARG. -/
theorem writeReg_args (b : Block) :
    writeReg (writeReg (writeReg b .argBits (b.resBits.setWidth 32)) .argValLo (loHalf b.resVal)) .argValHi (hiHalf b.resVal)
      = b.argsFromResult := by
  simp only [writeReg, setWidth_setWidth_bits, joinHalves_both, Block.argsFromResult]

theorem runEvent_of_match (b : Block) (reg : List Definition) (h : (b.runDecode reg).matchFlag = true) :
    b.runEvent reg = (b.runDecode reg).argsFromResult.runChkdup := if_pos h

/-- Settles O49: the five transfers one by one. -/
theorem eventIsDecodeThenChkdup : Obligations.EventIsDecodeThenChkdup := by
  unfold Obligations.EventIsDecodeThenChkdup
  refine fun s => ⟨_, _, exec_decode s, exec_event s, fun hmatch => ?_⟩
  rw [run_writeLine_command 4 _ .decode _ _ rfl (exec_decode _), run_writeLine 3 _ .argBits _ _ (by simp) rfl,
    run_writeLine 2 _ .argValLo _ _ (by simp) rfl, run_writeLine 1 _ .argValHi _ _ (by simp) rfl,
    run_writeLine_command 0 _ .chkdup _ _ rfl (exec_chkdup _), run_zero, writeReg_args, runEvent_of_match _ _ hmatch]

end Sys2Proof.Machine
end

section
/-! The frame of every command and of every step (43_control.md R107, 10_state.md R11 to R29). -/

namespace Sys2Proof.Machine

-- What each command may change

/-- The row of CHKDUP (43_control.md R107). -/
theorem runChkdup_row (b : Block) :
    { b.runChkdup with dupFlag := b.dupFlag, log := b.log } = b ∧
    ∀ j : Fin 20, b.chkdupTarget ≠ some j → b.runChkdup.log[j] = b.log[j] := by
  refine ⟨?_, runChkdup_log_of_ne_target b⟩
  obtain ⟨_, _, hframe⟩ := runChkdup_frame b
  rw [hframe]

/-- The row of DECODE (43_control.md R107). -/
theorem runDecode_row (b : Block) (reg : List Definition) :
    { b.runDecode reg with matchFlag := b.matchFlag, resId := b.resId, resBits := b.resBits, resVal := b.resVal } = b := by
  obtain ⟨_, _, _, _, hframe⟩ := runDecode_frame b reg
  rw [hframe]

/-- The row of EVENT (43_control.md R107): outside its own fields nothing changes. -/
theorem runEvent_row (b : Block) (reg : List Definition) :
    { b.runEvent reg with
      matchFlag := b.matchFlag, resId := b.resId, resBits := b.resBits, resVal := b.resVal, dupFlag := b.dupFlag,
      argBits := b.argBits, argVal := b.argVal, log := b.log } = b := by
  obtain ⟨_, _, _, _, hdecode⟩ := runDecode_frame b reg
  unfold Block.runEvent
  split
  · obtain ⟨_, _, hchkdup⟩ := runChkdup_frame (b.runDecode reg).argsFromResult
    rw [hchkdup, hdecode]
    rfl
  · rw [hdecode]
    rfl

/-- On a match EVENT's arguments are its results, and it writes the one log entry that the scans for the decoded value find. -/
theorem runEvent_row_of_match (b : Block) (reg : List Definition) (h : (b.runEvent reg).matchFlag = true) :
    (b.runEvent reg).argBits = (b.runEvent reg).resBits ∧ (b.runEvent reg).argVal = (b.runEvent reg).resVal ∧
    ∀ j : Fin 20, ({ b with argVal := (b.runEvent reg).resVal } : Block).chkdupTarget ≠ some j →
      (b.runEvent reg).log[j] = b.log[j] := by
  obtain ⟨hnone, hrun⟩ | ⟨r, -, hrun⟩ := runEvent_cases b reg
  · rw [hrun] at h
    cases h
  · obtain ⟨l, v, hframe⟩ := runChkdup_frame (b.setResult (some r)).argsFromResult
    have hlog := runChkdup_log_of_ne_target (b.setResult (some r)).argsFromResult
    rw [hframe] at hrun hlog
    rw [hrun]
    exact ⟨rfl, rfl, hlog⟩

theorem runEvent_row_of_no_match (b : Block) (reg : List Definition) (h : (b.runEvent reg).matchFlag = false) :
    (b.runEvent reg).argBits = b.argBits ∧ (b.runEvent reg).argVal = b.argVal ∧ (b.runEvent reg).log = b.log := by
  obtain ⟨-, hrun⟩ | ⟨r, -, hrun⟩ := runEvent_cases b reg
  · rw [hrun]
    exact ⟨rfl, rfl, rfl⟩
  · obtain ⟨l, v, hframe⟩ := runChkdup_frame (b.setResult (some r)).argsFromResult
    rw [hrun, hframe] at h
    cases h

/-- Settles O50: the rows of the frame table, command by command. -/
theorem commandsChangeOnlyTheirRow : Obligations.CommandsChangeOnlyTheirRow := by
  unfold Obligations.CommandsChangeOnlyTheirRow
  intro i s
  cases i with
  | nop => exact ⟨s, exec_nop s, rfl, rfl, rfl, fun _ => rfl, nofun, nofun, nofun, nofun⟩
  | decode => exact ⟨_, exec_decode s, rfl, rfl, rfl, nofun, fun _ => runDecode_row _ _, nofun, nofun, nofun⟩
  | chkdup => exact ⟨_, exec_chkdup s, rfl, rfl, rfl, nofun, nofun, fun _ => runChkdup_row _, nofun, nofun⟩
  | event =>
    exact ⟨_, exec_event s, rfl, rfl, rfl, nofun, nofun, nofun,
      fun _ => ⟨runEvent_row _ _, runEvent_row_of_match _ _, runEvent_row_of_no_match _ _⟩, nofun⟩
  | reset => exact ⟨_, exec_reset s, rfl, rfl, rfl, nofun, nofun, nofun, nofun, fun _ => rfl⟩

-- What each step may change

/-- What a write changes of PCOUNT, TIME and the pulses, it changes through those words' own names. -/
theorem writeReg_changes (b : Block) (r : Reg) (v : Word) :
    ((writeReg b r v).pcount ≠ b.pcount → r = .pcount) ∧
    ((writeReg b r v).time ≠ b.time → r = .timeLo ∨ r = .timeHi) ∧
    ((writeReg b r v).pulses ≠ b.pulses → ∃ w, r = .pulse w) := by
  cases r with
  | pcount => exact ⟨fun _ => rfl, fun h => absurd rfl h, fun h => absurd rfl h⟩
  | timeLo => exact ⟨fun h => absurd rfl h, fun _ => .inl rfl, fun h => absurd rfl h⟩
  | timeHi => exact ⟨fun h => absurd rfl h, fun _ => .inr rfl, fun h => absurd rfl h⟩
  | pulse w => exact ⟨fun h => absurd rfl h, fun h => absurd rfl h, fun _ => ⟨w, rfl⟩⟩
  | _ => exact ⟨fun h => absurd rfl h, fun h => absurd rfl h, fun h => absurd rfl h⟩

/-- The same of a write to an address. -/
theorem writeWord_changes (b : Block) (a : BusAddr) (v : Word) :
    ((writeWord b a v).pcount ≠ b.pcount → a = regAddr .pcount) ∧
    ((writeWord b a v).time ≠ b.time → a = regAddr .timeLo ∨ a = regAddr .timeHi) ∧
    ((writeWord b a v).pulses ≠ b.pulses → ∃ w, a = regAddr (.pulse w)) := by
  cases ha : locate a with
  | none =>
    rw [writeWord, ha]
    exact ⟨fun h => absurd rfl h, fun h => absurd rfl h, fun h => absurd rfl h⟩
  | some r =>
    obtain rfl := regAddr_of_locate a r ha
    obtain ⟨hpcount, htime, hpulses⟩ := writeReg_changes b r v
    rw [writeWord_regAddr]
    refine ⟨fun h => congrArg regAddr (hpcount h), fun h => ?_, fun h => ?_⟩
    · exact (htime h).imp (congrArg regAddr) (congrArg regAddr)
    · obtain ⟨w, hw⟩ := hpulses h
      exact ⟨w, congrArg regAddr hw⟩

/-- What a step changes of the block, without a reset, and the next event that it takes. -/
structure ChangesOnlyBy (b b' : Block) (script : List HostEvent) : Prop where
  pcount : b'.pcount ≠ b.pcount → ∃ v rest, script = .write (regAddr .pcount) v :: rest
  time : b'.time ≠ b.time → ∃ v rest, script = .write (regAddr .timeLo) v :: rest ∨ script = .write (regAddr .timeHi) v :: rest
  pulses : b'.pulses ≠ b.pulses → ∃ w v rest, script = .write (regAddr (.pulse w)) v :: rest
  result : b'.matchFlag ≠ b.matchFlag ∨ b'.resId ≠ b.resId ∨ b'.resBits ≠ b.resBits ∨ b'.resVal ≠ b.resVal →
    ∃ rest, script = .write 0 0x00000001 :: rest ∨ script = .write 0 0x00000003 :: rest
  filter : b'.dupFlag ≠ b.dupFlag ∨ b'.log ≠ b.log →
    ∃ rest, script = .write 0 0x00000002 :: rest ∨ script = .write 0 0x00000003 :: rest

/-- An event that keeps PCOUNT, TIME, the pulses, the result and the filter. -/
theorem changesOnlyBy_of_kept (b b' : Block) (script : List HostEvent) (hp : b'.pcount = b.pcount) (ht : b'.time = b.time)
    (hb : b'.pulses = b.pulses) (hm : b'.matchFlag = b.matchFlag) (hi : b'.resId = b.resId) (hk : b'.resBits = b.resBits)
    (hv : b'.resVal = b.resVal) (hd : b'.dupFlag = b.dupFlag) (hl : b'.log = b.log) : ChangesOnlyBy b b' script :=
  ⟨fun h => absurd hp h, fun h => absurd ht h, fun h => absurd hb h,
    fun h => (not_or.mpr ⟨not_not.mpr hm, not_or.mpr ⟨not_not.mpr hi, not_or.mpr ⟨not_not.mpr hk, not_not.mpr hv⟩⟩⟩ h).elim,
    fun h => (not_or.mpr ⟨not_not.mpr hd, not_not.mpr hl⟩ h).elim⟩

theorem changesOnlyBy_self (b : Block) (script : List HostEvent) : ChangesOnlyBy b b script :=
  changesOnlyBy_of_kept b b script rfl rfl rfl rfl rfl rfl rfl rfl rfl

theorem writeWord_changesOnlyBy (b : Block) (a : BusAddr) (v : Word) (rest : List HostEvent) :
    ChangesOnlyBy b (writeWord b a v) (.write a v :: rest) := by
  obtain ⟨hpcount, htime, hpulses⟩ := writeWord_changes b a v
  obtain ⟨_, _, _, _, _, hframe⟩ := writeWord_frame b a v
  refine ⟨fun h => ⟨v, rest, by rw [hpcount h]⟩, fun h => ⟨v, rest, ?_⟩, fun h => ?_, fun h => ?_, fun h => ?_⟩
  · exact (htime h).imp (fun ha => by rw [ha]) (fun ha => by rw [ha])
  · obtain ⟨w, rfl⟩ := hpulses h
    exact ⟨w, v, rest, rfl⟩
  · simp [hframe] at h
  · simp [hframe] at h

/-- A command that is no RESET. -/
theorem exec_changesOnlyBy (i : Instr) (s : State) (rest : List HostEvent) (hi : i ≠ .reset) :
    ∃ b, exec i s = .next { s with block := b } ∧ ChangesOnlyBy s.block b (.write 0 (encodeWord i) :: rest) := by
  cases i with
  | nop => exact ⟨s.block, exec_nop s, changesOnlyBy_self _ _⟩
  | decode =>
    refine ⟨_, exec_decode s, ?_⟩
    obtain ⟨_, _, _, _, hframe⟩ := runDecode_frame s.block s.registry
    rw [hframe]
    exact ⟨fun h => absurd rfl h, fun h => absurd rfl h, fun h => absurd rfl h, fun _ => ⟨rest, .inl rfl⟩, fun h => by simp at h⟩
  | chkdup =>
    refine ⟨_, exec_chkdup s, ?_⟩
    obtain ⟨_, _, hframe⟩ := runChkdup_frame s.block
    rw [hframe]
    exact ⟨fun h => absurd rfl h, fun h => absurd rfl h, fun h => absurd rfl h, fun h => by simp at h, fun _ => ⟨rest, .inl rfl⟩⟩
  | event =>
    have hrow := runEvent_row s.block s.registry
    exact ⟨_, exec_event s, fun h => absurd (congrArg Block.pcount hrow) h, fun h => absurd (congrArg Block.time hrow) h,
      fun h => absurd (congrArg Block.pulses hrow) h, fun _ => ⟨rest, .inr rfl⟩, fun _ => ⟨rest, .inr rfl⟩⟩
  | reset => exact absurd rfl hi

theorem issue_changesOnlyBy (w : Word) (s : State) (rest : List HostEvent) (hw : w ≠ 0x0000000F) :
    ∃ b, issue w s = .next { s with block := b } ∧ ChangesOnlyBy s.block b (.write 0 w :: rest) := by
  by_cases hcommand : ∃ i, w = encodeWord i
  · obtain ⟨i, rfl⟩ := hcommand
    rw [issue_encodeWord]
    exact exec_changesOnlyBy i s rest (mt (encodeWord_eq_reset_iff i).mpr hw)
  · exact ⟨_, issue_illegal w s hcommand, changesOnlyBy_of_kept _ _ _ rfl rfl rfl rfl rfl rfl rfl rfl rfl⟩

/-- One step whose event is no reset. -/
theorem step_changesOnlyBy (s : State)
    (hreset : ∀ rest, s.script ≠ .hardReset :: rest ∧ s.script ≠ .write 0 0x0000000F :: rest) :
    ∃ t, step s = .next t ∧ ChangesOnlyBy s.block t.block s.script := by
  cases hs : s.script with
  | nil => exact ⟨s, step_idle s hs, changesOnlyBy_self _ _⟩
  | cons e rest =>
    rw [step_event s e rest hs]
    cases e with
    | read a => exact ⟨_, perform_read a _, changesOnlyBy_self _ _⟩
    | hardReset => exact absurd hs (hreset rest).1
    | write a v =>
      by_cases ha : a = 0
      · subst ha
        have hv : v ≠ 0x0000000F := by
          rintro rfl
          exact (hreset rest).2 hs
        rw [perform_write_zero]
        obtain ⟨b, hb, hchanges⟩ := issue_changesOnlyBy v { s with script := rest } rest hv
        exact ⟨_, hb, hchanges⟩
      · exact ⟨_, perform_write_other a v _ ha, writeWord_changesOnlyBy s.block a v rest⟩

/-- Settles O52: every step keeps the registry, and one whose event is no reset changes only what that event may change. -/
theorem stateChangesOnlyByTheListedEvents : Obligations.StateChangesOnlyByTheListedEvents := by
  unfold Obligations.StateChangesOnlyByTheListedEvents
  intro s
  obtain ⟨t, ht, -, hreg⟩ := step_next s
  refine ⟨t, ht, hreg, fun hreset => ?_⟩
  obtain ⟨t', ht', hchanges⟩ := step_changesOnlyBy s hreset
  obtain rfl : t' = t := Host.Outcome.next.inj (ht'.symm.trans ht)
  exact ⟨hchanges.pcount, hchanges.time, hchanges.pulses, hchanges.result, hchanges.filter⟩

end Sys2Proof.Machine
end

section
/-! The bytes of a command, the step that runs one, and the reset state (30_encoding.md R52, R63, 43_control.md R105,
70_reset_and_hazards.md R126). -/

namespace Sys2Proof

/-- A word is the word of its four bytes (20_memory.md R38). -/
theorem wordOfBytes_fields (w : Word) :
    wordOfBytes (w.extractLsb' 0 8) (w.extractLsb' 8 8) (w.extractLsb' 16 8) (w.extractLsb' 24 8) = w := by
  apply BitVec.eq_of_toNat_eq
  simp only [wordOfBytes, append_toNat, extract_toNat]
  omega

/-- The decoder reads the word of the first four bytes and leaves the rest (30_encoding.md R50). -/
theorem decode_wordBytes_append (w : Word) (rest : List Byte) : decode (wordBytes w ++ rest) = (decodeWord w).map fun i => (i, rest) := by
  rw [wordBytes, List.cons_append, List.cons_append, List.cons_append, List.cons_append, List.nil_append, decode, wordOfBytes_fields]

/-- Settles O2: the bytes of a command are those of its word. -/
theorem encodedCommandDecodesToItself : Obligations.EncodedCommandDecodesToItself := by
  unfold Obligations.EncodedCommandDecodesToItself
  intro i rest _
  rw [encode, decode_wordBytes_append, decodeWord_encodeWord]
  rfl

/-- Settles O3: the five rows are the encoder's bytes read back; the other three inputs are refused at their first check that fails. -/
theorem commandBytesDecodeAsWritten : Obligations.CommandBytesDecodeAsWritten := by
  unfold Obligations.CommandBytesDecodeAsWritten
  have hrow (i : Instr) (hi : i.wf = true) : decode (encode i ++ []) = .ok (i, []) := encodedCommandDecodesToItself i [] hi
  exact ⟨hrow .nop rfl, hrow .decode rfl, hrow .chkdup rfl, hrow .event rfl, hrow .reset rfl, by decide, by decide, by decide⟩

namespace Machine

/-- Settles O9: the event is taken from the script, and the port runs the command of its word. -/
theorem stepRunsTheDecodedCommand : Obligations.StepRunsTheDecodedCommand := by
  unfold Obligations.StepRunsTheDecodedCommand
  intro s w rest i hs hw _
  obtain rfl := decodeWord_eq_ok w i hw
  rw [step_event s _ rest hs, perform_write_zero, issue_encodeWord]

/-- Settles O19: the fields of the reset block, slot by slot. -/
theorem resetStateIsAllZero : Obligations.ResetStateIsAllZero := by
  unfold Obligations.ResetStateIsAllZero
  exact ⟨rfl, rfl, rfl, rfl, rfl, rfl, rfl, rfl, rfl, rfl, Block_reset_pulse, fun i => Block_reset_log i.val i.isLt, rfl⟩

end Machine

end Sys2Proof
end
